-- ==== Sys2Proof/Word.lean ====
section
/-! DEFINITION. The word type of the machine: `XLEN = 32` (spec rules R5, R7). -/

namespace Sys2Proof

/-- A register value, a data-memory word, an address or the pc: 32 bits, arithmetic modulo `2^32` (R7). -/
abbrev Word := BitVec 32

end Sys2Proof
end

