-- ==== Sys2Proof/Config.lean ====
section
/-! DEFINITION. What is fixed for one machine: the parameter record (R5, R6), the constants of the source, and the free
value of the open replacement policy (R257). -/

namespace Sys2Proof.Config

/-- `INSTR_WIDTH`: how far the pc advances per instruction (R5, R101). -/
def instrWidth : Nat := 4

/-- `INT_DEPTH` (R5, R195). -/
def intDepth : Nat := 2
/-- `MUL_DEPTH` (R5, R195). -/
def mulDepth : Nat := 3
/-- `BR_DEPTH` (R5, R195). -/
def brDepth : Nat := 1
/-- `MEM_DEPTH` (R5, R195). -/
def memDepth : Nat := 1

/-- The victim that the open `BTB_VICTIM` policy chooses at its `n`-th choice (R257: "any function from the engine state to
an index"; "A model should take the victim as a free choice (a draw)"). No value of it is known. FREE VALUE, log 3. -/
opaque freeVictim : Nat → Nat

end Sys2Proof.Config

namespace Sys2Proof

/-- The replacement policy of the branch target buffer (R5 `BTB_VICTIM`, R257): the default of the test vectors, or the
open policy whose every choice is free. -/
inductive VictimPolicy where
  | roundRobin
  | free
  deriving DecidableEq, Repr

/-- The parameter record (R5). The default values are those of the table of R5. -/
structure Params where
  numArch     : Nat := 16
  numPhys     : Nat := 32
  iqSize      : Nat := 8
  robSize     : Nat := 16
  lsqSize     : Nat := 8
  btbSize     : Nat := 4
  bisSize     : Nat := 4
  dataMemSize : Nat := 4096
  codeBase    : Nat := 4000
  /-- `CYCLE_BUDGET` is OPEN, without default (R5). `none` drops the budget clause of `done` and leaves the bound to the
  caller's loop, as R370 allows. DESIGN CHOICE, log 2. -/
  cycleBudget : Option Nat := none
  btbVictim   : VictimPolicy := .roundRobin
  deriving DecidableEq, Repr

/-- The constraints every configuration meets, for a program of `n` instructions (R6). -/
abbrev Params.Legal (c : Params) (n : Nat) : Prop :=
  c.numArch < c.numPhys ∧ 1 ≤ c.iqSize ∧ 1 ≤ c.robSize ∧ 1 ≤ c.lsqSize ∧ 1 ≤ c.btbSize ∧ 1 ≤ c.bisSize ∧
  c.codeBase % Config.instrWidth = 0 ∧ c.codeBase + Config.instrWidth * n < 2 ^ 32

/-- The constraint R6 adds when the 32-bit packing is used: the packing's register fields are four bits wide. -/
abbrev Params.LegalPacked (c : Params) (n : Nat) : Prop := c.Legal n ∧ c.numArch ≤ 16

end Sys2Proof
end

