-- ==== Sys2Proof/Syntax.lean ====
section
/-! DEFINITION. The instruction set: the fifteen instructions (R106) with the operands each uses (R103, R107), the closed
set of opcode tags, and the loader's static-instruction record (R100). -/

namespace Sys2Proof

/-- The opcode tags (R106). A closed enumeration, as R109 allows. -/
inductive Opcode where
  | add | sub | and | or | xor | mul | movc | load | ldr | store | str | bz | bnz | jump | halt
  deriving DecidableEq, Repr

/-- A static instruction (R100) with the fields its opcode uses (R103, R107). Register ids are numbers and the immediate is
a signed integer, as in the record; `WellFormed` says which are legal. -/
inductive Instr where
  /-- `ADD rd, rs1, rs2` (R221) -/
  | add (rd rs1 rs2 : Nat)
  /-- `SUB rd, rs1, rs2` (R222) -/
  | sub (rd rs1 rs2 : Nat)
  /-- `AND rd, rs1, rs2` (R223) -/
  | and (rd rs1 rs2 : Nat)
  /-- `OR rd, rs1, rs2` (R224) -/
  | or (rd rs1 rs2 : Nat)
  /-- `XOR rd, rs1, rs2` (R225) -/
  | xor (rd rs1 rs2 : Nat)
  /-- `MUL rd, rs1, rs2` (R240) -/
  | mul (rd rs1 rs2 : Nat)
  /-- `MOVC rd, #imm` (R226) -/
  | movc (rd : Nat) (imm : Int)
  /-- `LOAD rd, rs1, #imm` (R280) -/
  | load (rd rs1 : Nat) (imm : Int)
  /-- `LDR rd, rs1, rs2` (R281) -/
  | ldr (rd rs1 rs2 : Nat)
  /-- `STORE rs1, rs2, #imm` (R282): value register, base register, displacement -/
  | store (rs1 rs2 : Nat) (imm : Int)
  /-- `STR rs1, rs2, rs3` (R283): value register, base register, index register -/
  | str (rs1 rs2 rs3 : Nat)
  /-- `BZ #imm` (R250) -/
  | bz (imm : Int)
  /-- `BNZ #imm` (R251) -/
  | bnz (imm : Int)
  /-- `JUMP rs1, #imm` (R252) -/
  | jump (rs1 : Nat) (imm : Int)
  /-- `HALT` (R346) -/
  | halt
  deriving DecidableEq, Repr

/-- The record a loader hands to `initialize` (R100): six fields, the opcode a number that may name no instruction (R109). -/
structure StaticRecord where
  opcode : Nat
  rd     : Nat := 0
  rs1    : Nat := 0
  rs2    : Nat := 0
  rs3    : Nat := 0
  imm    : Int := 0
  deriving DecidableEq, Repr

end Sys2Proof
end

