-- ==== Sys2Proof/Machine/State.lean ====
section
/-! DEFINITION. The Engine: every element of R20 as plain data, the reasons a step can stop, and the reset state (R46). -/

namespace Sys2Proof.Machine

/-- The unit classes (R115). -/
inductive UnitClass where
  | mem | br | mul | int
  deriving DecidableEq, Repr

/-- `last_stall` (R43): the outcome of Dispatch in the most recent tick. -/
inductive Stall where
  | none
  | registerExhausted
  | structuralStall
  deriving DecidableEq, Repr

/-- A physical register: a value slot plus a validity bit (R24). -/
structure PhysReg where
  value : Word
  valid : Bool
  deriving DecidableEq, Repr

/-- The `DR` latch between Fetch and Dispatch (R29, R30). `busy` is that the latch is there (log 5). -/
structure DrLatch where
  stalled : Bool
  pc      : Word
  opcode  : Opcode
  rd      : Nat
  rs1     : Nat
  rs2     : Nat
  rs3     : Nat
  imm     : Word
  deriving DecidableEq, Repr

/-- A source slot of an issue-queue entry: `src[k].p` and `src[k].ready` (R32). -/
structure SrcTag where
  p     : Nat
  ready : Bool
  deriving DecidableEq, Repr

/-- An issue-queue entry (R32). `valid` is that the entry is there (log 5); `nsrc` is the length of `src` (log 6). -/
structure IqEntry where
  opcode : Opcode
  src    : List SrcTag
  pd     : Option Nat
  imm    : Word
  rob    : Nat
  lsq    : Option Nat
  deriving DecidableEq, Repr

/-- A functional-unit stage latch (R29, R34). `busy` is that the latch is there (log 5); `vals` holds `val[1..nsrc]`, and
`known[k]` is that `vals` has a `k`-th element (log 6). `result` and `addr` are the scratch fields (R29); what they hold in a
newly issued latch is the model's choice, log 20. -/
structure UnitLatch where
  stalled : Bool
  opcode  : Opcode
  rob     : Nat
  lsq     : Option Nat
  pd      : Option Nat
  vals    : List Word
  imm     : Word
  result  : Word
  addr    : Word
  deriving DecidableEq, Repr

/-- A reorder-buffer entry (R35). `valid` is that the entry is there (log 5). -/
structure RobEntry where
  pc           : Word
  opcode       : Opcode
  rd           : Nat
  pd           : Option Nat
  prev         : Option Nat
  complete     : Bool
  predTaken    : Bool
  predTarget   : Word
  actTaken     : Bool
  actTarget    : Word
  mispredicted : Bool
  fault        : Bool
  faultAddr    : Word
  deriving DecidableEq, Repr

/-- A load-store-queue entry (R37). `valid` is that the entry is there (log 5). -/
structure LsqEntry where
  isStore   : Bool
  rob       : Nat
  addrValid : Bool
  addr      : Word
  value     : Word
  pd        : Option Nat
  done      : Bool
  deriving DecidableEq, Repr

/-- A branch-target-buffer entry (R39). `valid` is that the entry is there (log 5). -/
structure BtbEntry where
  tag    : Word
  taken  : Bool
  target : Word
  deriving DecidableEq, Repr

/-- A checkpoint of the branch instruction stack (R40): a value copy of the front map, `zsrc`, and the branch's ROB index. -/
structure Checkpoint where
  rat  : List Nat
  zsrc : Option Nat
  rob  : Nat
  deriving DecidableEq, Repr

/-- The payload of the run-time error `AddressOutOfRange(pc, addr)` (R43, R383). -/
structure AddrError where
  pc   : Word
  addr : Word
  deriving DecidableEq, Repr

/-- The data memory (R41): word index and word, indices strictly rising, no entry equal to what an unlisted index reads as.
The unit is the word: R73 forbids a byte structure (log 4). -/
abbrev Memory := List (Nat × Word)

/-- Why the machine stops. Each is a precondition that the spec states for an operation and that holds in every state reached
from `initialize` (U23; R137: "A model should make such a read a fault of the model"). Safe: the model stops where the
engine cannot be. Log 7. The run-time error of the machine, `AddressOutOfRange`, is none of these: it is a next state. -/
inductive Fault where
  /-- Issue reads physical register `p`, which is not valid (R137). Safe. -/
  | invalidPhysRead (p : Nat)
  /-- A broadcast into physical register `p`, which already holds a produced value or does not exist (R142, R203). Safe. -/
  | physWriteClash (p : Nat)
  /-- `free(p)` of a register that is already free or does not exist (R138). Safe. -/
  | freeClash (p : Nat)
  /-- A RAT or RRAT access with an architectural id or mapping outside its table (R131, R133, R134). Safe. -/
  | unmapped (i : Nat)
  /-- An operation names ROB slot `r`, which holds no valid entry of the form it needs (R201, R321, R323). Safe. -/
  | robSlot (r : Nat)
  /-- An operation names LSQ slot `l`, which holds no valid entry (R284, R324). Safe. -/
  | lsqSlot (l : Nat)
  /-- A branch commits and the bottom checkpoint is missing or belongs to another branch (R259). Safe. -/
  | bisBottom
  /-- `MemRead` or `MemWrite` of an index that does not exist, `unsigned(a) >= DATA_MEM_SIZE` (R86). Safe. -/
  | memoryIndex (a : Word)
  deriving DecidableEq, Repr

/-- Why there is no meaning. -/
inductive Refusal where
  /-- Raised by an arm of `exec` that has no meaning yet. No arm does. Safe. -/
  | notModelled (mnemonic : String)
  /-- Raised by `exec` and by Fetch for a malformed instruction, which is `UnknownOpcode` at load time and of which the spec
  says "No Engine exists afterwards" (R110, R384). Safe. Log 9. -/
  | unknownOpcode
  deriving DecidableEq, Repr

/-- The Engine (R20), with the parameters it is built for (R5, log 1) and its program (R42). -/
structure State where
  /-- The parameters; no step changes them (R45). -/
  cfg          : Params
  /-- `prog[0..N-1]`, the instruction store; no step changes it (R42). -/
  prog         : List Instr
  /-- The address of the next instruction Fetch will read (R22). -/
  pc           : Word
  /-- Set by a flush, cleared by Fetch (R31). -/
  fetchRecover : Bool
  /-- The front-end latch (R30). -/
  dr           : Option DrLatch
  /-- The physical register file (R24). -/
  prf          : List PhysReg
  /-- The free pool, one bit per physical register (R25). -/
  free         : List Bool
  /-- The front map (R26). -/
  rat          : List Nat
  /-- The physical register of the youngest dispatched instruction with a destination (R23, R26). -/
  zsrc         : Option Nat
  /-- The retirement map (R27). -/
  rrat         : List Nat
  /-- The issue queue (R33). -/
  iq           : List (Option IqEntry)
  /-- `INT[1..2]` (R34). -/
  intU         : List (Option UnitLatch)
  /-- `MUL[1..3]` (R34). -/
  mulU         : List (Option UnitLatch)
  /-- `BR[1]` (R34). -/
  brU          : List (Option UnitLatch)
  /-- `MEM[1]` (R34). -/
  memU         : List (Option UnitLatch)
  /-- The reorder buffer (R36). -/
  rob          : List (Option RobEntry)
  robHead      : Nat
  robTail      : Nat
  robCount     : Nat
  /-- The load-store queue (R38). -/
  lsq          : List (Option LsqEntry)
  lsqHead      : Nat
  lsqTail      : Nat
  lsqCount     : Nat
  /-- The branch target buffer and the round-robin pointer (R39). -/
  btb          : List (Option BtbEntry)
  btbRr        : Nat
  /-- How many victims the open policy has drawn: the model's own field (R257, log 3). -/
  victimDraws  : Nat
  /-- The branch instruction stack, oldest first; `bis_count` is its length (R40, log 5). -/
  bis          : List Checkpoint
  /-- The data memory (R41). -/
  dmem         : Memory
  /-- The status fields (R43). -/
  cycle        : Nat
  committed    : Nat
  halted       : Bool
  error        : Option AddrError
  lastStall    : Stall
  deriving DecidableEq, Repr

/-- The reset state (R46, R412) for parameters `c`, a program, `INIT_REG` and `INIT_MEM` (R411). `INIT_REG` is given as a
list; a register it does not list starts at 0. -/
def State.initial (c : Params) (prog : List Instr) (initReg : List Word) (initMem : Memory) : State where
  cfg := c
  prog := prog
  pc := BitVec.ofNat 32 c.codeBase
  fetchRecover := false
  dr := none
  prf := (List.range c.numPhys).map fun p =>
    if p < c.numArch then ⟨initReg.getD p 0, true⟩ else ⟨0, false⟩
  free := (List.range c.numPhys).map fun p => decide (c.numArch ≤ p)
  rat := List.range c.numArch
  zsrc := none
  rrat := List.range c.numArch
  iq := List.replicate c.iqSize none
  intU := List.replicate Config.intDepth none
  mulU := List.replicate Config.mulDepth none
  brU := List.replicate Config.brDepth none
  memU := List.replicate Config.memDepth none
  rob := List.replicate c.robSize none
  robHead := 0
  robTail := 0
  robCount := 0
  lsq := List.replicate c.lsqSize none
  lsqHead := 0
  lsqTail := 0
  lsqCount := 0
  btb := List.replicate c.btbSize none
  btbRr := 0
  victimDraws := 0
  bis := []
  dmem := initMem
  cycle := 0
  committed := 0
  halted := false
  error := none
  lastStall := .none

/-- The machine right after reset with the default parameters, `INIT_REG` and `INIT_MEM` all zero, and no program loaded
(R46, R411; log 8). -/
def State.reset : State := State.initial {} [] [] []

end Sys2Proof.Machine
end

