-- ==== Sys2Proof/Machine/Ops.lean ====
section
/-! DEFINITION. The named operations on the Engine: sequencing, the architectural view, memory, the renaming block, the
result bus, and the one run-time error. -/

namespace Sys2Proof.Machine

/-- The outcome of an operation or a step. -/
abbrev Out := Host.Outcome State Fault Refusal

/-- One step of the pipeline after another: the second sees the state the first left (R8, R360). -/
def seq (o : Out) (k : State → Out) : Out :=
  match o with
  | .next s => k s
  | .fault f => .fault f
  | .refused r => .refused r

/-! ### Data memory (R41, R72, R86) -/

/-- What an index that memory does not list reads as: `INIT_MEM` is all zero by default (R46, R87). -/
def Memory.unlisted : Word := 0

/-- The word at an index. -/
def Memory.read : Memory → Nat → Word
  | [], _ => Memory.unlisted
  | (b, v) :: m, a => if b = a then v else Memory.read m a

/-- Memory with one more listed word, placed in order, unless it is what an unlisted index reads as. -/
def Memory.cons (a : Nat) (v : Word) (m : Memory) : Memory :=
  if v = Memory.unlisted then m else (a, v) :: m

/-- Memory with `v` at index `a`, in canonical form. -/
def Memory.write : Memory → Nat → Word → Memory
  | [], a, v => Memory.cons a v []
  | (b, w) :: m, a, v =>
    if a < b then Memory.cons a v ((b, w) :: m)
    else if a = b then Memory.cons a v m
    else (b, w) :: Memory.write m a v

/-- The canonical form: indices strictly rising, no listed word equal to the unlisted one. -/
def Memory.wf : Memory → Bool
  | [] => true
  | [(_, v)] => v != Memory.unlisted
  | (a, v) :: (b, w) :: m => v != Memory.unlisted && decide (a < b) && Memory.wf ((b, w) :: m)

/-- A list of words by index as a memory in canonical form (`INIT_MEM`, R411); of two pairs with one index the first counts. -/
def Memory.ofList : List (Nat × Word) → Memory
  | [] => []
  | (a, v) :: m => Memory.write (Memory.ofList m) a v

/-- Whether `a` names a word: `unsigned(a) < DATA_MEM_SIZE` (R72, R77). -/
def inData (s : State) (a : Word) : Bool := decide (a.toNat < s.cfg.dataMemSize)

/-- `DMEM[a]` (R86): the content at a word index. -/
def memRead (s : State) (a : Word) : Word := s.dmem.read a.toNat

/-- `MemWrite(a, 1, v)` (R86), with its precondition. -/
def memWrite (a v : Word) (s : State) : Out :=
  if inData s a then .next { s with dmem := s.dmem.write a.toNat v } else .fault (.memoryIndex a)

/-! ### The architectural view (R48) -/

/-- `x[i]`: the committed value of `Ri`, `PRF[RRAT[i]].value` (R8, R21, R48). A register that does not exist reads as 0
(log 21). -/
def readReg (s : State) (i : Nat) : Word :=
  match s.rrat[i]? with
  | some p => (s.prf[p]?.map PhysReg.value).getD 0
  | none => 0

/-! ### Free pool (R138, R139) -/

/-- The lowest-numbered free register, counting from `p` (R139). -/
def lowestFree : Nat → List Bool → Option Nat
  | _, [] => none
  | p, true :: _ => some p
  | p, false :: l => lowestFree (p + 1) l

/-- The register `alloc()` hands out, if any is free (R139). -/
def pickFree (s : State) : Option Nat := lowestFree 0 s.free

/-- A register slot with its valid bit cleared. -/
def PhysReg.invalidate (r : PhysReg) : PhysReg := { r with valid := false }

/-- The effect of `alloc()` on the register `p` it hands out: `free[p] <- 0`, `PRF[p].valid <- 0` (R139). -/
def allocAt (p : Nat) (s : State) : State :=
  { s with free := s.free.set p false, prf := s.prf.modify p PhysReg.invalidate }

/-- `free(p)` (R138), with its precondition that `p` is not free. -/
def freeReg (p : Nat) (s : State) : Out :=
  if s.free[p]? = some false then .next { s with free := s.free.set p true } else .fault (.freeClash p)

/-- `free(p)` for each register of a list. -/
def freeRegs : List Nat → State → Out
  | [], s => .next s
  | p :: ps, s => seq (freeReg p s) (freeRegs ps)

/-! ### Physical register file (R137) -/

/-- `prf_ready(p)`: the valid bit; `none` for a register that does not exist. -/
def prfReady (s : State) (p : Nat) : Option Bool := s.prf[p]?.map PhysReg.valid

/-- `prf_read(p)`: the value of a valid register; `none` otherwise, which the caller makes a fault (R137). -/
def prfRead (s : State) (p : Nat) : Option Word :=
  match s.prf[p]? with
  | some r => if r.valid then some r.value else none
  | none => none

/-! ### Renaming (R131 to R136) -/

/-- `rat_lookup(i)` (R131). -/
def ratLookup (s : State) (i : Nat) : Option SrcTag :=
  match s.rat[i]? with
  | some p => (prfReady s p).map (SrcTag.mk p)
  | none => none

/-- `rat_rename(rd)` with the register `p` that `alloc()` chose (R133): allocate, map `rd` to `p`, make `p` the source of the
zero condition. The previous mapping is `s.rat[rd]?`, read before. -/
def ratRename (rd p : Nat) (s : State) : State :=
  let a := allocAt p s
  { a with rat := a.rat.set rd p, zsrc := some p }

/-- `rat_retire(rd, pd, prev)` (R134): the retirement map takes `pd`, the previous register goes back to the pool. -/
def ratRetire (rd pd prev : Nat) (s : State) : Out :=
  if rd < s.rrat.length then freeReg prev { s with rrat := s.rrat.set rd pd } else .fault (.unmapped rd)

/-- `rat_snapshot()` (R135), with the ROB index of the branch that takes it (R258). -/
def ratSnapshot (s : State) (r : Nat) : Checkpoint := { rat := s.rat, zsrc := s.zsrc, rob := r }

/-- `rat_restore(ck)` (R136). -/
def ratRestore (ck : Checkpoint) (s : State) : State := { s with rat := ck.rat, zsrc := ck.zsrc }

/-! ### Result bus and completion (R180, R200, R201) -/

/-- Wake-up of one source slot by tag `p` (R180). -/
def SrcTag.wake (p : Nat) (t : SrcTag) : SrcTag := if t.p = p then { t with ready := true } else t

/-- Wake-up of one entry by tag `p` (R180). -/
def IqEntry.wake (p : Nat) (e : IqEntry) : IqEntry := { e with src := e.src.map (SrcTag.wake p) }

/-- `broadcast(p, v)` (R200): `prf_write(p, v)`, then wake-up of the issue queue. A register is produced once between `alloc`
and `free` (R142), so a broadcast into a valid register is a fault. -/
def broadcast (p : Nat) (v : Word) (s : State) : Out :=
  if prfReady s p = some false then
    .next { s with prf := s.prf.set p ⟨v, true⟩, iq := s.iq.map (Option.map (IqEntry.wake p)) }
  else .fault (.physWriteClash p)

/-- The entry in ROB slot `r`. -/
def robAt (s : State) (r : Nat) : Option RobEntry := (s.rob[r]?).join

/-- Replacement of the valid entry in ROB slot `r`. -/
def robUpdate (r : Nat) (f : RobEntry → RobEntry) (s : State) : Out :=
  match robAt s r with
  | some e => .next { s with rob := s.rob.set r (some (f e)) }
  | none => .fault (.robSlot r)

/-- A ROB entry marked complete. -/
def RobEntry.completed (e : RobEntry) : RobEntry := { e with complete := true }

/-- `rob_complete(r)` (R201). -/
def robComplete (r : Nat) (s : State) : Out := robUpdate r RobEntry.completed s

/-! ### The run-time error (R322, R383, R387) -/

/-- Raising `AddressOutOfRange(pc, addr)`: "The whole effect of the one run-time error is: `error <-
AddressOutOfRange(pc, addr)`" (R387). There is no vector, nothing is saved, and no return from it exists (R389). -/
def raiseAddressOutOfRange (pc addr : Word) (s : State) : State := { s with error := some ⟨pc, addr⟩ }

end Sys2Proof.Machine
end

