-- ==== Sys2Proof/Machine/Flags.lean ====
section
/-! DEFINITION. The zero condition, the only flag (R23). It is no stored bit: it is the value of the register `zsrc` names,
compared with 0, and false if there is none. -/

namespace Sys2Proof.Machine

/-- `z <- (v = 0)` (R220, R253): the zero condition of a value. -/
def isZero (v : Word) : Bool := decide (v = 0)

/-- `rat_lookup_z()` (R132): no source when nothing with a destination has been dispatched, else `zsrc` with its valid bit.
The outer `none` is a `zsrc` that names no register. -/
def ratLookupZ (s : State) : Option (List SrcTag) :=
  match s.zsrc with
  | none => some []
  | some p => (prfReady s p).map fun r => [SrcTag.mk p r]

/-- The zero condition of a machine with nothing in flight: of the value the last destination-writing instruction wrote;
false if there is no such instruction (R23). A `zsrc` beyond the pool reads as 0 (log 21). -/
def zeroCond (s : State) : Bool :=
  match s.zsrc with
  | none => false
  | some p => isZero ((s.prf[p]?.map PhysReg.value).getD 0)

/-- The zero condition the branch unit sees: the operand compared with 0, false without a source (R253). -/
def zeroOf (vals : List Word) : Bool :=
  match vals with
  | v :: _ => isZero v
  | [] => false

end Sys2Proof.Machine
end

