-- ==== Sys2Proof/WellFormed.lean ====
section
/-! DEFINITION. Which instructions are legal: every register id in a used slot names a register (R110) and the immediate is
in the range the packing allows (R102, R105, R384). -/

namespace Sys2Proof

/-- A register id in a used slot is below `NUM_ARCH` (R110). -/
def regOk (numArch r : Nat) : Bool := decide (r < numArch)

/-- The range of a packed immediate, `-32768..32767` (R105, R384). -/
def immOk (imm : Int) : Bool := decide (-32768 ≤ imm) && decide (imm ≤ 32767)

/-- What `initialize` demands of each record of a program (R384), for a machine of `numArch` registers. -/
def Instr.wellFormed (numArch : Nat) : Instr → Bool
  | .add rd rs1 rs2 => regOk numArch rd && regOk numArch rs1 && regOk numArch rs2
  | .sub rd rs1 rs2 => regOk numArch rd && regOk numArch rs1 && regOk numArch rs2
  | .and rd rs1 rs2 => regOk numArch rd && regOk numArch rs1 && regOk numArch rs2
  | .or rd rs1 rs2 => regOk numArch rd && regOk numArch rs1 && regOk numArch rs2
  | .xor rd rs1 rs2 => regOk numArch rd && regOk numArch rs1 && regOk numArch rs2
  | .mul rd rs1 rs2 => regOk numArch rd && regOk numArch rs1 && regOk numArch rs2
  | .movc rd imm => regOk numArch rd && immOk imm
  | .load rd rs1 imm => regOk numArch rd && regOk numArch rs1 && immOk imm
  | .ldr rd rs1 rs2 => regOk numArch rd && regOk numArch rs1 && regOk numArch rs2
  | .store rs1 rs2 imm => regOk numArch rs1 && regOk numArch rs2 && immOk imm
  | .str rs1 rs2 rs3 => regOk numArch rs1 && regOk numArch rs2 && regOk numArch rs3
  | .bz imm => immOk imm
  | .bnz imm => immOk imm
  | .jump rs1 imm => regOk numArch rs1 && immOk imm
  | .halt => true

end Sys2Proof
end

