-- ==== Sys2Proof/Decode.lean ====
section
/-! DEFINITION. The canonical 32-bit packing (R102): the decoder, total on words and rejecting by name, the encoder, the
record view of an instruction (R100) and the reading of a loader's record. -/

namespace Sys2Proof

/-- Why a word or a record is no instruction (R109, R110, R384). -/
inductive DecodeError where
  /-- The opcode tag is outside the fifteen (in the packing: the reserved nibble 0). -/
  | unknownOpcode (tag : Nat)
  /-- A register id or an immediate of a record is outside its range (R110, R384). -/
  | malformed
  deriving DecidableEq, Repr

/-- The numeric opcode value `w[31:28]` (R106). -/
def Opcode.tag : Opcode → Nat
  | .add => 1
  | .sub => 2
  | .and => 3
  | .or => 4
  | .xor => 5
  | .mul => 6
  | .movc => 7
  | .load => 8
  | .ldr => 9
  | .store => 10
  | .str => 11
  | .bz => 12
  | .bnz => 13
  | .jump => 14
  | .halt => 15

/-- The `opcode` field of an instruction (R100). -/
def Instr.opcode : Instr → Opcode
  | .add _ _ _ => .add
  | .sub _ _ _ => .sub
  | .and _ _ _ => .and
  | .or _ _ _ => .or
  | .xor _ _ _ => .xor
  | .mul _ _ _ => .mul
  | .movc _ _ => .movc
  | .load _ _ _ => .load
  | .ldr _ _ _ => .ldr
  | .store _ _ _ => .store
  | .str _ _ _ => .str
  | .bz _ => .bz
  | .bnz _ => .bnz
  | .jump _ _ => .jump
  | .halt => .halt

/-- The record of an instruction (R100); a field the opcode does not use is 0 (R102, R108). -/
def Instr.toRecord : Instr → StaticRecord
  | .add rd rs1 rs2 => { opcode := 1, rd := rd, rs1 := rs1, rs2 := rs2 }
  | .sub rd rs1 rs2 => { opcode := 2, rd := rd, rs1 := rs1, rs2 := rs2 }
  | .and rd rs1 rs2 => { opcode := 3, rd := rd, rs1 := rs1, rs2 := rs2 }
  | .or rd rs1 rs2 => { opcode := 4, rd := rd, rs1 := rs1, rs2 := rs2 }
  | .xor rd rs1 rs2 => { opcode := 5, rd := rd, rs1 := rs1, rs2 := rs2 }
  | .mul rd rs1 rs2 => { opcode := 6, rd := rd, rs1 := rs1, rs2 := rs2 }
  | .movc rd imm => { opcode := 7, rd := rd, imm := imm }
  | .load rd rs1 imm => { opcode := 8, rd := rd, rs1 := rs1, imm := imm }
  | .ldr rd rs1 rs2 => { opcode := 9, rd := rd, rs1 := rs1, rs2 := rs2 }
  | .store rs1 rs2 imm => { opcode := 10, rs1 := rs1, rs2 := rs2, imm := imm }
  | .str rs1 rs2 rs3 => { opcode := 11, rs1 := rs1, rs2 := rs2, rs3 := rs3 }
  | .bz imm => { opcode := 12, imm := imm }
  | .bnz imm => { opcode := 13, imm := imm }
  | .jump rs1 imm => { opcode := 14, rs1 := rs1, imm := imm }
  | .halt => { opcode := 15 }

/-- The instruction a record stands for: the opcode's used fields are taken, the others ignored (R107, R108). -/
def StaticRecord.toInstr (r : StaticRecord) : Except DecodeError Instr :=
  match r.opcode with
  | 1 => .ok (.add r.rd r.rs1 r.rs2)
  | 2 => .ok (.sub r.rd r.rs1 r.rs2)
  | 3 => .ok (.and r.rd r.rs1 r.rs2)
  | 4 => .ok (.or r.rd r.rs1 r.rs2)
  | 5 => .ok (.xor r.rd r.rs1 r.rs2)
  | 6 => .ok (.mul r.rd r.rs1 r.rs2)
  | 7 => .ok (.movc r.rd r.imm)
  | 8 => .ok (.load r.rd r.rs1 r.imm)
  | 9 => .ok (.ldr r.rd r.rs1 r.rs2)
  | 10 => .ok (.store r.rs1 r.rs2 r.imm)
  | 11 => .ok (.str r.rs1 r.rs2 r.rs3)
  | 12 => .ok (.bz r.imm)
  | 13 => .ok (.bnz r.imm)
  | 14 => .ok (.jump r.rs1 r.imm)
  | 15 => .ok .halt
  | t => .error (.unknownOpcode t)

/-- The record check of `initialize` (R384): the record names an instruction and that instruction is legal. -/
def StaticRecord.validate (numArch : Nat) (r : StaticRecord) : Except DecodeError Instr :=
  match r.toInstr with
  | .ok i => if i.wellFormed numArch then .ok i else .error .malformed
  | .error e => .error e

/-- The bit field `w[lo+len-1:lo]` as an unsigned number (R7). -/
def field (w : Word) (lo len : Nat) : Nat := (w.extractLsb' lo len).toNat

/-- `imm16` of a word, sign-extended (R105). -/
def immField (w : Word) : Int := (w.extractLsb' 0 16).toInt

/-- The record a packed word holds (R102): `opcode` in bits 31:28, `rd` 27:24, `rs1` 23:20, `rs2` 19:16, `imm16` 15:0,
and `rs3` in bits 15:12, which STR alone reads. -/
def unpack (w : Word) : StaticRecord :=
  { opcode := field w 28 4, rd := field w 24 4, rs1 := field w 20 4, rs2 := field w 16 4, rs3 := field w 12 4,
    imm := immField w }

/-- The decoder (R102): total on words; only the opcode nibble selects, no used or unused field is ever rejected (R108), and
the reserved nibble 0 is rejected by name (R109). -/
def decode (w : Word) : Except DecodeError Instr := (unpack w).toInstr

/-- Packing of the fields of R102, high field first. -/
def pack (tag rd rs1 rs2 : Nat) (low : BitVec 16) : Word :=
  BitVec.ofNat 4 tag ++ BitVec.ofNat 4 rd ++ BitVec.ofNat 4 rs1 ++ BitVec.ofNat 4 rs2 ++ low

/-- The low half of an STR word: `rs3` in bits 15:12, bits 11:0 written as zero (R102, R108). -/
def rs3Half (rs3 : Nat) : BitVec 16 := BitVec.ofNat 4 rs3 ++ 0#12

/-- The encoder: the canonical word of a well-formed instruction, unused fields zero (R102, R106, R108). -/
def encode : Instr → Word
  | .add rd rs1 rs2 => pack 1 rd rs1 rs2 0
  | .sub rd rs1 rs2 => pack 2 rd rs1 rs2 0
  | .and rd rs1 rs2 => pack 3 rd rs1 rs2 0
  | .or rd rs1 rs2 => pack 4 rd rs1 rs2 0
  | .xor rd rs1 rs2 => pack 5 rd rs1 rs2 0
  | .mul rd rs1 rs2 => pack 6 rd rs1 rs2 0
  | .movc rd imm => pack 7 rd 0 0 (BitVec.ofInt 16 imm)
  | .load rd rs1 imm => pack 8 rd rs1 0 (BitVec.ofInt 16 imm)
  | .ldr rd rs1 rs2 => pack 9 rd rs1 rs2 0
  | .store rs1 rs2 imm => pack 10 0 rs1 rs2 (BitVec.ofInt 16 imm)
  | .str rs1 rs2 rs3 => pack 11 0 rs1 rs2 (rs3Half rs3)
  | .bz imm => pack 12 0 0 0 (BitVec.ofInt 16 imm)
  | .bnz imm => pack 13 0 0 0 (BitVec.ofInt 16 imm)
  | .jump rs1 imm => pack 14 0 rs1 0 (BitVec.ofInt 16 imm)
  | .halt => pack 15 0 0 0 0

/-- The instruction the decoder reads from the bits `w` of a table row of `nbits` bits, bits above `nbits` zero. A word is a
number and no byte order exists (R73, R102), so the bits are the word. -/
def decodeTableWord (nbits w : Nat) : Option Instr :=
  match decode (BitVec.ofNat 32 (w % 2 ^ nbits)) with
  | .ok i => some i
  | .error _ => none

/-- Reading a list of records or words in order: the instructions, or the lowest index that is no instruction (R384). -/
def collect {α : Type} (f : α → Except DecodeError Instr) : Nat → List α → Except Nat (List Instr)
  | _, [] => .ok []
  | k, a :: rest =>
    match f a with
    | .error _ => .error k
    | .ok i =>
      match collect f (k + 1) rest with
      | .error j => .error j
      | .ok is => .ok (i :: is)

/-- A packed program (R111: instruction `k` is word `k`), each word decoded and checked for a machine of `numArch`
registers (R384). -/
def decodeProgram (numArch : Nat) (ws : List Word) : Except Nat (List Instr) :=
  collect (fun w => (unpack w).validate numArch) 0 ws

/-- A program given as records (R100), each checked (R384). -/
def validateProgram (numArch : Nat) (rs : List StaticRecord) : Except Nat (List Instr) :=
  collect (StaticRecord.validate numArch) 0 rs

end Sys2Proof
end

