-- ==== Sys2Proof/Machine/Operands.lean ====
section
/-! DEFINITION. What each opcode allocates and waits for (R107), its unit class (R115), its operands, and which pc values
name an instruction (R151). -/

namespace Sys2Proof.Machine

/-- The opcode has a destination register and is a producer of the zero condition (R107). -/
def hasDest : Opcode → Bool
  | .add | .sub | .and | .or | .xor | .mul | .movc | .load | .ldr => true
  | .store | .str | .bz | .bnz | .jump | .halt => false

/-- The opcode takes an LSQ entry (R107). -/
def usesLsq : Opcode → Bool
  | .load | .ldr | .store | .str => true
  | .add | .sub | .and | .or | .xor | .mul | .movc | .bz | .bnz | .jump | .halt => false

/-- The opcode is a store (R160, R324). -/
def isStoreOp : Opcode → Bool
  | .store | .str => true
  | .add | .sub | .and | .or | .xor | .mul | .movc | .load | .ldr | .bz | .bnz | .jump | .halt => false

/-- The opcode is a branch: BTB prediction and BIS entry (R107). -/
def isBranch : Opcode → Bool
  | .bz | .bnz | .jump => true
  | .add | .sub | .and | .or | .xor | .mul | .movc | .load | .ldr | .store | .str | .halt => false

/-- The opcode reads the zero condition (R107). -/
def readsZero : Opcode → Bool
  | .bz | .bnz => true
  | .add | .sub | .and | .or | .xor | .mul | .movc | .load | .ldr | .store | .str | .jump | .halt => false

/-- Unit class of each opcode (R115). -/
def unitClass : Opcode → UnitClass
  | .add | .sub | .and | .or | .xor | .movc | .halt => .int
  | .mul => .mul
  | .bz | .bnz | .jump => .br
  | .load | .ldr | .store | .str => .mem

/-- The register fields the opcode's source slots name, in slot order (R104, R107). -/
def srcRegs (d : DrLatch) : List Nat :=
  match d.opcode with
  | .add | .sub | .and | .or | .xor | .mul | .ldr | .store => [d.rs1, d.rs2]
  | .load | .jump => [d.rs1]
  | .str => [d.rs1, d.rs2, d.rs3]
  | .movc | .bz | .bnz | .halt => []

/-- `sext_32(imm)`: the immediate the core uses, the record's integer modulo `2^32` (R100, R105). -/
def sext32 (imm : Int) : Word := BitVec.ofInt 32 imm

/-- The address of the next instruction in sequence (R22, R101). -/
def nextSeq (pc : Word) : Word := pc + BitVec.ofNat 32 Config.instrWidth

/-- `(pc - CODE_BASE) mod 2^32` (R22, R151). -/
def codeOffset (s : State) (a : Word) : Nat := (a - BitVec.ofNat 32 s.cfg.codeBase).toNat

/-- The instruction index of a pc value (R71). -/
def codeIndex (s : State) (a : Word) : Nat := codeOffset s a / Config.instrWidth

/-- `in_range(a)` (R151). -/
def inRange (s : State) (a : Word) : Bool :=
  decide (codeOffset s a % Config.instrWidth = 0) && decide (codeIndex s a < s.prog.length)

/-- The instruction at a pc value, if the pc is in range (R71, R151). -/
def instrAt (s : State) (a : Word) : Option Instr :=
  if inRange s a then s.prog[codeIndex s a]? else none

end Sys2Proof.Machine
end

