-- ==== Sys2Proof/Machine/Meaning.lean ====
section
/-! DEFINITION. Shared operations of the instructions' meanings. A meaning is the instruction's own effect on the committed
machine: it reads `x[i]` through the retirement map (R8, R48) and runs the engine's own operations in the order of the
instruction's engine path, with nothing else in flight: rename the destination (R133), broadcast the result (R200), retire
(R134, R323, R326). How the tick gets there over several steps is `Machine/Driver.lean`; log 11. -/

namespace Sys2Proof.Machine

/-- A malformed instruction is `UnknownOpcode` and has no meaning (R109, R110, R384); log 9. -/
def ifWellFormed (i : Instr) (s : State) (k : Out) : Out :=
  if i.wellFormed s.cfg.numArch then k else .refused .unknownOpcode

/-- The instruction has retired and execution goes on at `npc` (R22, R326). -/
def retired (npc : Word) (s : State) : State := { s with pc := npc, committed := s.committed + 1 }

/-- A stall for want of a physical register: `last_stall` records it and nothing else changes (R156, R381). -/
def stallRegister (s : State) : State := { s with lastStall := .registerExhausted }

/-- `x[rd] <- v; z <- (v = 0)` by way of renaming: `rat_rename(rd)`, `broadcast(pd, v)`, `rat_retire(rd, pd, prev)`, and the
instruction retires to the next in sequence (R133, R200, R134, R220, R323). With no free register the instruction waits
(R155); log 12. -/
def writeBack (rd : Nat) (v : Word) (s : State) : Out :=
  match pickFree s with
  | none => .next (stallRegister s)
  | some p =>
    match s.rat[rd]? with
    | none => .fault (.unmapped rd)
    | some prev =>
      seq (broadcast p v (ratRename rd p s)) fun a =>
      seq (ratRetire rd p prev a) fun b =>
      .next (retired (nextSeq s.pc) b)

/-- An access to `a` that is out of range: `pc <- pc + 4`, then the error is raised with the instruction's own pc (R220, R383). The
pc is that of the reference semantics, which move it first; log 12. -/
def raisedAt (a : Word) (s : State) : State := raiseAddressOutOfRange s.pc a { s with pc := nextSeq s.pc }

/-- A load from `a`: the range check, then the word is the result (R280, R281). -/
def loadFrom (rd : Nat) (a : Word) (s : State) : Out :=
  if inData s a then writeBack rd (memRead s a) s else .next (raisedAt a s)

/-- A store of `v` at `a`: the range check, then the word is written and the instruction retires (R282, R283). -/
def storeTo (a v : Word) (s : State) : Out :=
  if inData s a then seq (memWrite a v s) fun b => .next (retired (nextSeq s.pc) b)
  else .next (raisedAt a s)

end Sys2Proof.Machine
end

