-- ==== Sys2Proof/Machine/Branch.lean ====
section
/-! DEFINITION. BZ, BNZ, JUMP (R250 to R252): what the branch unit decides for each; the misprediction predicate (R254);
the branch target buffer (R255 to R257); the branch instruction stack (R258 to R260); and the meaning of each branch. -/

namespace Sys2Proof.Machine

/-! ### Outcome of a branch (R253, R254) -/

/-- BZ is taken iff the zero condition holds (R250). -/
def bzTaken (zv : Bool) : Bool := zv
/-- BNZ is taken iff it does not (R251). -/
def bnzTaken (zv : Bool) : Bool := !zv
/-- JUMP is always taken (R252, R253). -/
def jumpTaken : Bool := true
/-- The target of BZ: the branch's own pc plus the immediate (R250). -/
def bzTarget (pc imm : Word) : Word := pc + imm
/-- The target of BNZ: the branch's own pc plus the immediate (R251). -/
def bnzTarget (pc imm : Word) : Word := pc + imm
/-- The target of JUMP: register plus immediate (R252). -/
def jumpTarget (v1 imm : Word) : Word := v1 + imm

/-- `mispredict(e)` (R254). -/
def mispredict (e : RobEntry) : Bool :=
  (e.predTaken != e.actTaken) || (e.actTaken && e.predTaken && (e.predTarget != e.actTarget))

/-- The address a branch at `pc` continues at (R327). -/
def branchNext (pc : Word) (taken : Bool) (target : Word) : Word := if taken then target else nextSeq pc

/-! ### Branch target buffer (R255 to R257) -/

/-- The first valid entry with tag `a`, with its index counted from `k`. At most one has it (R39). -/
def btbFind (a : Word) : Nat → List (Option BtbEntry) → Option (Nat × BtbEntry)
  | _, [] => none
  | k, some e :: l => if e.tag = a then some (k, e) else btbFind a (k + 1) l
  | k, none :: l => btbFind a (k + 1) l

/-- `btb_lookup(a)` (R255): hit, predicted direction, predicted target. -/
def btbLookup (s : State) (a : Word) : Bool × Bool × Word :=
  match btbFind a 0 s.btb with
  | some (_, e) => (true, e.taken, e.target)
  | none => (false, false, 0)

/-- The lowest-numbered empty slot, counting from `k`. -/
def firstNone {α : Type} : Nat → List (Option α) → Option Nat
  | _, [] => none
  | k, none :: _ => some k
  | k, some _ :: l => firstNone (k + 1) l

/-- `BTB_VICTIM()` (R257): the index to replace, and the engine with the policy's own state advanced. -/
def btbVictim (s : State) : Nat × State :=
  match s.cfg.btbVictim with
  | .roundRobin => (s.btbRr, { s with btbRr := (s.btbRr + 1) % s.cfg.btbSize })
  | .free => (Config.freeVictim s.victimDraws % s.cfg.btbSize, { s with victimDraws := s.victimDraws + 1 })

/-- The entry a committed branch leaves in its slot: the new direction, and the new target if it was taken, else the old
one (R256). -/
def trainedEntry (a : Word) (taken : Bool) (target old : Word) : BtbEntry :=
  { tag := a, taken := taken, target := if taken then target else old }

/-- `btb_update(a, taken, target)` (R256): a hit trains its entry; a miss takes the lowest empty slot, or a victim. -/
def btbUpdate (a : Word) (taken : Bool) (target : Word) (s : State) : State :=
  match btbFind a 0 s.btb with
  | some (k, e) => { s with btb := s.btb.set k (some (trainedEntry a taken target e.target)) }
  | none =>
    match firstNone 0 s.btb with
    | some k => { s with btb := s.btb.set k (some (trainedEntry a taken target 0)) }
    | none =>
      let (k, t) := btbVictim s
      { t with btb := s.btb.set k (some (trainedEntry a taken target 0)) }

/-! ### Branch instruction stack (R258 to R260) -/

/-- `bis_push(ck)` (R258). The caller has checked that the stack is not full (R155). -/
def bisPush (ck : Checkpoint) (s : State) : State := { s with bis := s.bis ++ [ck] }

/-- `bis_pop_oldest()` (R259), for the branch in ROB slot `r`: the bottom checkpoint, which must be that branch's. -/
def bisOldest (r : Nat) (s : State) : Option Checkpoint :=
  match s.bis with
  | ck :: _ => if ck.rob = r then some ck else none
  | [] => none

/-- The stack without its bottom (R259). -/
def bisPop (s : State) : State := { s with bis := s.bis.tail }

/-- `bis_clear()` (R260). -/
def bisClear (s : State) : State := { s with bis := [] }

/-! ### Meanings -/

/-- A branch retires: it trains the BTB with its outcome (R325) and execution goes on where it leads (R250 to R252). Its
checkpoint is pushed and popped again and leaves no trace (R258, R259). -/
def retireBranch (taken : Bool) (target : Word) (s : State) : Out :=
  .next (retired (branchNext s.pc taken target) (btbUpdate s.pc taken target s))

/-- BZ (R250). -/
def execBz (imm : Int) (s : State) : Out :=
  ifWellFormed (.bz imm) s (retireBranch (bzTaken (zeroCond s)) (bzTarget s.pc (sext32 imm)) s)

/-- BNZ (R251). -/
def execBnz (imm : Int) (s : State) : Out :=
  ifWellFormed (.bnz imm) s (retireBranch (bnzTaken (zeroCond s)) (bnzTarget s.pc (sext32 imm)) s)

/-- JUMP (R252). -/
def execJump (rs1 : Nat) (imm : Int) (s : State) : Out :=
  ifWellFormed (.jump rs1 imm) s (retireBranch jumpTaken (jumpTarget (readReg s rs1) (sext32 imm)) s)

end Sys2Proof.Machine
end

