-- ==== Sys2Proof/Machine/Halt.lean ====
section
/-! DEFINITION. HALT (R346). -/

namespace Sys2Proof.Machine

/-- `halted <- 1` (R326, R346). -/
def setHalted (s : State) : State := { s with halted := true }

/-- HALT (R346): it retires and stops the machine; no register, flag or memory changes. The pc is past it, as the reference
semantics move it first (R220; log 12). -/
def execHalt (s : State) : Out :=
  ifWellFormed .halt s (.next (retired (nextSeq s.pc) (setHalted s)))

end Sys2Proof.Machine
end

