-- ==== Sys2Proof/Machine/Integer.lean ====
section
/-! DEFINITION. ADD, SUB, AND, OR, XOR, MOVC (R221 to R227): the result each computes in the last stage of the integer unit,
and the meaning of each. -/

namespace Sys2Proof.Machine

/-- ADD: `val[1] + val[2]` modulo `2^32` (R221). -/
def addValue (a b : Word) : Word := a + b
/-- SUB: `val[1] - val[2]` modulo `2^32` (R222). -/
def subValue (a b : Word) : Word := a - b
/-- AND: bitwise (R223). -/
def andValue (a b : Word) : Word := a &&& b
/-- OR: bitwise (R224). -/
def orValue (a b : Word) : Word := a ||| b
/-- XOR: bitwise exclusive or (R225). -/
def xorValue (a b : Word) : Word := a ^^^ b
/-- MOVC: the extended immediate (R226). -/
def movcValue (imm : Word) : Word := imm

/-- ADD (R221). -/
def execAdd (rd rs1 rs2 : Nat) (s : State) : Out :=
  ifWellFormed (.add rd rs1 rs2) s (writeBack rd (addValue (readReg s rs1) (readReg s rs2)) s)

/-- SUB (R222). -/
def execSub (rd rs1 rs2 : Nat) (s : State) : Out :=
  ifWellFormed (.sub rd rs1 rs2) s (writeBack rd (subValue (readReg s rs1) (readReg s rs2)) s)

/-- AND (R223). -/
def execAnd (rd rs1 rs2 : Nat) (s : State) : Out :=
  ifWellFormed (.and rd rs1 rs2) s (writeBack rd (andValue (readReg s rs1) (readReg s rs2)) s)

/-- OR (R224). -/
def execOr (rd rs1 rs2 : Nat) (s : State) : Out :=
  ifWellFormed (.or rd rs1 rs2) s (writeBack rd (orValue (readReg s rs1) (readReg s rs2)) s)

/-- XOR (R225). -/
def execXor (rd rs1 rs2 : Nat) (s : State) : Out :=
  ifWellFormed (.xor rd rs1 rs2) s (writeBack rd (xorValue (readReg s rs1) (readReg s rs2)) s)

/-- MOVC (R226). -/
def execMovc (rd : Nat) (imm : Int) (s : State) : Out :=
  ifWellFormed (.movc rd imm) s (writeBack rd (movcValue (sext32 imm)) s)

end Sys2Proof.Machine
end

