-- ==== Sys2Proof/Machine/LoadStore.lean ====
section
/-! DEFINITION. LOAD, LDR, STORE, STR (R280 to R283): the address each computes in the memory unit, and the meaning of
each. -/

namespace Sys2Proof.Machine

/-- LOAD: base `val[1]` plus immediate, modulo `2^32` (R280, R284). -/
def loadAddr (v1 imm : Word) : Word := v1 + imm
/-- LDR: base `val[1]` plus index `val[2]` (R281, R284). -/
def ldrAddr (v1 v2 : Word) : Word := v1 + v2
/-- STORE: base `val[2]` plus immediate (R282, R284). -/
def storeAddr (v2 imm : Word) : Word := v2 + imm
/-- STR: base `val[2]` plus index `val[3]` (R283, R284). -/
def strAddr (v2 v3 : Word) : Word := v2 + v3

/-- LOAD (R280). -/
def execLoad (rd rs1 : Nat) (imm : Int) (s : State) : Out :=
  ifWellFormed (.load rd rs1 imm) s (loadFrom rd (loadAddr (readReg s rs1) (sext32 imm)) s)

/-- LDR (R281). -/
def execLdr (rd rs1 rs2 : Nat) (s : State) : Out :=
  ifWellFormed (.ldr rd rs1 rs2) s (loadFrom rd (ldrAddr (readReg s rs1) (readReg s rs2)) s)

/-- STORE (R282): value register `rs1`, base register `rs2`. -/
def execStore (rs1 rs2 : Nat) (imm : Int) (s : State) : Out :=
  ifWellFormed (.store rs1 rs2 imm) s (storeTo (storeAddr (readReg s rs2) (sext32 imm)) (readReg s rs1) s)

/-- STR (R283): value register `rs1`, base register `rs2`, index register `rs3`. -/
def execStr (rs1 rs2 rs3 : Nat) (s : State) : Out :=
  ifWellFormed (.str rs1 rs2 rs3) s (storeTo (strAddr (readReg s rs2) (readReg s rs3)) (readReg s rs1) s)

end Sys2Proof.Machine
end

