-- ==== Sys2Proof/Machine/Multiply.lean ====
section
/-! DEFINITION. MUL (R240, R241). -/

namespace Sys2Proof.Machine

/-- MUL: the low 32 bits of the product (R240). -/
def mulValue (a b : Word) : Word := a * b

/-- MUL (R240). -/
def execMul (rd rs1 rs2 : Nat) (s : State) : Out :=
  ifWellFormed (.mul rd rs1 rs2) s (writeBack rd (mulValue (readReg s rs1) (readReg s rs2)) s)

end Sys2Proof.Machine
end

