-- ==== Sys2Proof/Machine/Commit.lean ====
section
/-! DEFINITION. The reorder buffer: ages (R36), commit (R320 to R327) and flush (R328). -/

namespace Sys2Proof.Machine

/-- `age(i) = (i - rob_head) mod ROB_SIZE` (R36). -/
def robAge (s : State) (i : Nat) : Nat := (i + s.cfg.robSize - s.robHead) % s.cfg.robSize

/-! ### The parts of a retirement -/

/-- The committed destination (R323). -/
def commitDest (e : RobEntry) (s : State) : Out :=
  if hasDest e.opcode then
    match e.pd, e.prev with
    | some pd, some prev => ratRetire e.rd pd prev s
    | _, _ => .fault (.robSlot s.robHead)
  else .next s

/-- Removal of the LSQ head entry (R289). -/
def lsqRelease (s : State) : State :=
  { s with lsq := s.lsq.set s.lsqHead none, lsqHead := (s.lsqHead + 1) % s.cfg.lsqSize, lsqCount := s.lsqCount - 1 }

/-- The entry in LSQ slot `l`. -/
def lsqAt (s : State) (l : Nat) : Option LsqEntry := (s.lsq[l]?).join

/-- The memory operation's part (R324): a store writes `DMEM`; every memory operation leaves the LSQ. -/
def commitMem (e : RobEntry) (s : State) : Out :=
  if usesLsq e.opcode then
    match lsqAt s s.lsqHead with
    | none => .fault (.lsqSlot s.lsqHead)
    | some q =>
      if isStoreOp e.opcode then seq (memWrite q.addr q.value s) fun t => .next (lsqRelease t)
      else .next (lsqRelease s)
  else .next s

/-- The branch's part (R325): it trains the BTB and its checkpoint leaves the stack. -/
def commitBranch (e : RobEntry) (s : State) : State :=
  if isBranch e.opcode then bisPop (btbUpdate e.pc e.actTaken e.actTarget s) else s

/-- `halted`, and the head advance (R326). -/
def commitHead (e : RobEntry) (s : State) : State :=
  { s with
    halted := s.halted || decide (e.opcode = .halt)
    rob := s.rob.set s.robHead none
    robHead := (s.robHead + 1) % s.cfg.robSize
    robCount := s.robCount - 1
    committed := s.committed + 1 }

/-! ### Flush (R328) -/

/-- The physical destinations of the valid ROB entries. -/
def robDests : List (Option RobEntry) → List Nat
  | [] => []
  | some e :: l => match e.pd with
    | some p => p :: robDests l
    | none => robDests l
  | none :: l => robDests l

/-- Every stage latch of a unit emptied (R204). -/
def emptied {α : Type} (l : List (Option α)) : List (Option α) := List.replicate l.length none

/-- What a flush empties and redirects (R328), the free pool apart. -/
def flushState (ck : Checkpoint) (next : Word) (s : State) : State :=
  bisClear (ratRestore ck
    { s with
      rob := emptied s.rob
      robTail := s.robHead
      robCount := 0
      iq := emptied s.iq
      lsq := emptied s.lsq
      lsqTail := s.lsqHead
      lsqCount := 0
      intU := emptied s.intU
      mulU := emptied s.mulU
      brU := emptied s.brU
      memU := emptied s.memU
      dr := none
      pc := next
      fetchRecover := true })

/-- `flush(ck, next)` (R328): the destinations of the discarded instructions go back to the pool, everything in flight goes. -/
def flush (ck : Checkpoint) (next : Word) (s : State) : Out :=
  seq (freeRegs (robDests s.rob) s) fun t => .next (flushState ck next t)

/-! ### Commit -/

/-- The retirement of the head entry `e` (R323 to R327), in that order. -/
def retire (e : RobEntry) (s : State) : Out :=
  seq (commitDest e s) fun a =>
  seq (commitMem e a) fun b =>
  if isBranch e.opcode then
    match bisOldest s.robHead b with
    | none => .fault .bisBottom
    | some ck =>
      let c := commitHead e (commitBranch e b)
      if e.mispredicted then flush ck (branchNext e.pc e.actTaken e.actTarget) c else .next c
  else .next (commitHead e b)

/-- Commit (R320 to R322): only the head, only if complete; a recorded fault is raised instead of a retirement. -/
def commit (s : State) : Out :=
  if s.robCount = 0 then .next s
  else
    match robAt s s.robHead with
    | none => .fault (.robSlot s.robHead)
    | some e =>
      if !e.complete then .next s
      else if e.fault then .next (raiseAddressOutOfRange e.pc e.faultAddr s)
      else retire e s

end Sys2Proof.Machine
end

