-- ==== Sys2Proof/Machine/FrontEnd.lean ====
section
/-! DEFINITION. Fetch (R150, R151) and Decode/Rename/Dispatch (R153 to R164). -/

namespace Sys2Proof.Machine

/-! ### Fetch -/

/-- The latch Fetch makes of an instruction at `pc` (R150): the record's fields, the immediate extended. -/
def drOf (pc : Word) (i : Instr) : DrLatch :=
  let r := i.toRecord
  { stalled := false, pc := pc, opcode := i.opcode, rd := r.rd, rs1 := r.rs1, rs2 := r.rs2, rs3 := r.rs3, imm := sext32 r.imm }

/-- Fetch (R150). A malformed record, which `initialize` never lets in, is refused (R384, log 9). -/
def fetch (s : State) : Out :=
  if s.fetchRecover then .next { s with fetchRecover := false }
  else if s.dr.isSome then .next s
  else
    match instrAt s s.pc with
    | none => .next s
    | some i =>
      if i.wellFormed s.cfg.numArch then .next { s with dr := some (drOf s.pc i), pc := nextSeq s.pc }
      else .refused .unknownOpcode

/-! ### Dispatch: the availability check -/

/-- The ROB is full (R36). -/
def robFull (s : State) : Bool := decide (s.robCount = s.cfg.robSize)
/-- Every IQ slot is valid (R33). -/
def iqFull (s : State) : Bool := s.iq.all Option.isSome
/-- The LSQ is full (R38). -/
def lsqFull (s : State) : Bool := decide (s.lsqCount = s.cfg.lsqSize)
/-- The BIS is full (R155). -/
def bisFull (s : State) : Bool := decide (s.bis.length = s.cfg.bisSize)

/-- The availability check (R154, R155): the first failure decides the reported reason. -/
def stallReason (o : Opcode) (s : State) : Stall :=
  if hasDest o && (pickFree s).isNone then .registerExhausted
  else if robFull s || iqFull s || (usesLsq o && lsqFull s) || (isBranch o && bisFull s) then .structuralStall
  else .none

/-- The effect of a stall (R156). -/
def stallDispatch (r : Stall) (d : DrLatch) (s : State) : State :=
  { s with lastStall := r, dr := some { d with stalled := true } }

/-! ### Dispatch: the allocations, in the order of R153 -/

/-- `rat_lookup` of each register of a list (R157). -/
def lookupAll (s : State) : List Nat → Option (List SrcTag)
  | [] => some []
  | i :: is =>
    match ratLookup s i, lookupAll s is with
    | some t, some ts => some (t :: ts)
    | _, _ => none

/-- Source rename (R157). -/
def sourceTags (d : DrLatch) (s : State) : Option (List SrcTag) :=
  if readsZero d.opcode then ratLookupZ s else lookupAll s (srcRegs d)

/-- The physical destination: what `alloc()` will hand out, if the opcode has a destination (R158, R139). -/
def destReg (d : DrLatch) (s : State) : Option Nat := if hasDest d.opcode then pickFree s else none

/-- The previous mapping of the destination (R133, R158). -/
def destPrev (d : DrLatch) (s : State) : Option Nat := if hasDest d.opcode then s.rat[d.rd]? else none

/-- Destination rename (R158). -/
def renameDest (d : DrLatch) (pd : Option Nat) (s : State) : State :=
  match pd with
  | some p => ratRename d.rd p s
  | none => s

/-- The ROB entry of a dispatched instruction (R159), with a branch's prediction (R162). -/
def dispatchedEntry (d : DrLatch) (pd prev : Option Nat) (predTaken : Bool) (predTarget : Word) : RobEntry :=
  { pc := d.pc, opcode := d.opcode, rd := d.rd, pd := pd, prev := prev, complete := false, predTaken := predTaken,
    predTarget := predTarget, actTaken := false, actTarget := 0, mispredicted := false, fault := false, faultAddr := 0 }

/-- ROB allocation (R159). -/
def allocRob (e : RobEntry) (s : State) : State :=
  { s with
    rob := s.rob.set s.robTail (some e)
    robTail := (s.robTail + 1) % s.cfg.robSize
    robCount := s.robCount + 1 }

/-- LSQ allocation (R160), for memory operations only; `r` is the instruction's ROB index. -/
def allocLsq (d : DrLatch) (pd : Option Nat) (r : Nat) (s : State) : State :=
  if usesLsq d.opcode then
    { s with
      lsq := s.lsq.set s.lsqTail (some
        { isStore := isStoreOp d.opcode, rob := r, addrValid := false, addr := 0, value := 0, pd := pd, done := false })
      lsqTail := (s.lsqTail + 1) % s.cfg.lsqSize
      lsqCount := s.lsqCount + 1 }
  else s

/-- The entry put into the lowest-numbered invalid slot (R161). -/
def insertIq (e : IqEntry) : List (Option IqEntry) → List (Option IqEntry)
  | [] => []
  | none :: l => some e :: l
  | some x :: l => some x :: insertIq e l

/-- IQ allocation (R161). -/
def allocIq (e : IqEntry) (s : State) : State := { s with iq := insertIq e s.iq }

/-- A branch's prediction (R162): taken and its target if the BTB hits and says taken, else not taken. -/
def predict (d : DrLatch) (s : State) : Bool × Word :=
  if isBranch d.opcode then
    match btbLookup s d.pc with
    | (hit, t, tgt) => if hit && t then (true, tgt) else (false, 0)
  else (false, 0)

/-- A branch's checkpoint and redirection (R162). -/
def dispatchBranch (d : DrLatch) (pred : Bool × Word) (r : Nat) (s : State) : State :=
  if isBranch d.opcode then
    let t := bisPush (ratSnapshot s r) s
    if pred.1 then { t with pc := pred.2 } else t
  else s

/-- `DR <- empty; last_stall <- none` (R163). -/
def clearDr (s : State) : State := { s with dr := none, lastStall := .none }

/-- The successful dispatch of the latch `d` whose sources have been looked up (R158 to R163). -/
def dispatchWith (d : DrLatch) (src : List SrcTag) (s : State) : State :=
  let pd := destReg d s
  let prev := destPrev d s
  let pred := predict d s
  let r := s.robTail
  let l := if usesLsq d.opcode then some s.lsqTail else none
  let a := renameDest d pd s
  let b := allocRob (dispatchedEntry d pd prev pred.1 pred.2) a
  let c := allocLsq d pd r b
  let e := allocIq { opcode := d.opcode, src := src, pd := pd, imm := d.imm, rob := r, lsq := l } c
  clearDr (dispatchBranch d pred r e)

/-- Dispatch (R153): nothing to do, a stall, or all the allocations (R164). -/
def dispatch (s : State) : Out :=
  match s.dr with
  | none => .next { s with lastStall := .none }
  | some d =>
    match stallReason d.opcode s with
    | .none =>
      match sourceTags d s with
      | some src => .next (dispatchWith d src s)
      | none => .fault (.unmapped d.rd)
    | r => .next (stallDispatch r d s)

end Sys2Proof.Machine
end

