-- ==== Sys2Proof/Machine/LoadStoreQueue.lean ====
section
/-! DEFINITION. The load-store queue: order, load eligibility (R286), the load access (R287), and the last stage of the memory
unit (R284, R290). -/

namespace Sys2Proof.Machine

/-- The slot at position `k` of the LSQ, 0 the head (R38). -/
def lsqSlotAt (s : State) (k : Nat) : Nat := (s.lsqHead + k) % s.cfg.lsqSize

/-- The valid entries of the LSQ with their slots, oldest first (R38, R285). -/
def lsqInOrder (s : State) : List (Nat × LsqEntry) :=
  (List.range s.lsqCount).filterMap fun k => (lsqAt s (lsqSlotAt s k)).map (Prod.mk (lsqSlotAt s k))

/-- An older entry does not block a load from `a`: it is a load, or a store with a known, different address (R286). -/
def passes (a : Word) (o : LsqEntry) : Bool := !o.isStore || (o.addrValid && o.addr != a)

/-- Load eligibility (R286): `q` is a load whose address is known and which has not been performed, and every older store has a
known address that differs. -/
def eligible (older : List LsqEntry) (q : LsqEntry) : Bool :=
  !q.isStore && q.addrValid && !q.done && older.all (passes q.addr)

/-- The first eligible load of a queue, oldest first, with the entries already passed (R287). -/
def firstEligible : List LsqEntry → List (Nat × LsqEntry) → Option (Nat × LsqEntry)
  | _, [] => none
  | older, (l, q) :: rest => if eligible older q then some (l, q) else firstEligible (older ++ [q]) rest

/-- An entry marked done (R287). -/
def LsqEntry.finished (q : LsqEntry) : LsqEntry := { q with done := true }

/-- `lsq_load_access()` (R287): the oldest eligible load reads `DMEM`, broadcasts, and completes. -/
def lsqLoadAccess (s : State) : Out :=
  match firstEligible [] (lsqInOrder s) with
  | none => .next s
  | some (l, q) =>
    match q.pd with
    | none => .fault (.lsqSlot l)
    | some p =>
      if inData s q.addr then
        seq (broadcast p (memRead s q.addr) s) fun t =>
        robComplete q.rob { t with lsq := t.lsq.set l (some q.finished) }
      else .fault (.memoryIndex q.addr)

/-- The operand `val[k]` of a latch, `k` from 1. A slot that is not known is never read (R29, U13). -/
def UnitLatch.val (op : UnitLatch) (k : Nat) : Word := op.vals.getD (k - 1) 0

/-- The address the memory unit computes (R284); no other opcode reaches it (R195). -/
def memAddress (op : UnitLatch) : Option Word :=
  match op.opcode with
  | .load => some (loadAddr (op.val 1) op.imm)
  | .ldr => some (ldrAddr (op.val 1) (op.val 2))
  | .store => some (storeAddr (op.val 2) op.imm)
  | .str => some (strAddr (op.val 2) (op.val 3))
  | .add | .sub | .and | .or | .xor | .mul | .movc | .bz | .bnz | .jump | .halt => none

/-- The LSQ entry with its address, and for a store its value and completion (R284). -/
def LsqEntry.addressed (a v : Word) (q : LsqEntry) : LsqEntry :=
  if q.isStore then { q with addr := a, addrValid := true, value := v, done := true }
  else { q with addr := a, addrValid := true }

/-- The record of a pending `AddressOutOfRange` in a ROB entry (R284, R290). -/
def RobEntry.faulted (a : Word) (e : RobEntry) : RobEntry := { e with fault := true, faultAddr := a, complete := true }

/-- The last stage of the memory unit for `op` with computed address `op.addr` (R284, R290). -/
def memRecord (op : UnitLatch) (s : State) : Out :=
  match op.lsq with
  | none => .fault (.robSlot op.rob)
  | some l =>
    match lsqAt s l with
    | none => .fault (.lsqSlot l)
    | some q =>
      let r := q.addressed op.addr (op.val 1)
      if inData s op.addr then
        let t := { s with lsq := s.lsq.set l (some r) }
        if q.isStore then robComplete op.rob t else .next t
      else robUpdate op.rob (RobEntry.faulted op.addr) { s with lsq := s.lsq.set l (some r.finished) }

/-- The last stage of the memory unit (R284). -/
def memLast (op : UnitLatch) (s : State) : Out :=
  match memAddress op with
  | some a => memRecord { op with addr := a } s
  | none => .fault (.robSlot op.rob)

end Sys2Proof.Machine
end

