-- ==== Sys2Proof/Machine/Units.lean ====
section
/-! DEFINITION. The functional units: the stage mechanics (R196 to R198), the last stages (R199, R253), and one unit's
evaluation in a tick. -/

namespace Sys2Proof.Machine

/-- The stages of a unit (R34, R195). -/
def unitStages (c : UnitClass) (s : State) : List (Option UnitLatch) :=
  match c with
  | .int => s.intU
  | .mul => s.mulU
  | .br => s.brU
  | .mem => s.memU

/-- The engine with a unit's stages replaced. -/
def setUnit (c : UnitClass) (l : List (Option UnitLatch)) (s : State) : State :=
  match c with
  | .int => { s with intU := l }
  | .mul => { s with mulU := l }
  | .br => { s with brU := l }
  | .mem => { s with memU := l }

/-- An operation that advanced (R196). -/
def UnitLatch.moved (op : UnitLatch) : UnitLatch := { op with stalled := false }
/-- An operation that could not advance (R196, R198). -/
def UnitLatch.blocked (op : UnitLatch) : UnitLatch := { op with stalled := true }

/-- The advance of a unit after its last stage has executed (R196): the last stage is emptied, and from the tail toward the
head each operation moves into the next stage if that is empty, else it stays and is marked stalled. -/
def advance : List (Option UnitLatch) → List (Option UnitLatch)
  | [] => []
  | [_] => [none]
  | x :: y :: rest =>
    match x, advance (y :: rest) with
    | some op, none :: r => none :: some op.moved :: r
    | some op, r => some op.blocked :: r
    | none, r => none :: r

/-- The result of an INT or MUL operation (R199); HALT has none, and the other opcodes do not reach these units (R195). -/
def aluResult (op : UnitLatch) : Option Word :=
  match op.opcode with
  | .add => some (addValue (op.val 1) (op.val 2))
  | .sub => some (subValue (op.val 1) (op.val 2))
  | .and => some (andValue (op.val 1) (op.val 2))
  | .or => some (orValue (op.val 1) (op.val 2))
  | .xor => some (xorValue (op.val 1) (op.val 2))
  | .mul => some (mulValue (op.val 1) (op.val 2))
  | .movc => some (movcValue op.imm)
  | .halt | .load | .ldr | .store | .str | .bz | .bnz | .jump => none

/-- The broadcast of `op.result`, if the operation has a physical destination (R199). -/
def deliver (op : UnitLatch) (s : State) : Out :=
  match op.pd with
  | some p => broadcast p op.result s
  | none => .next s

/-- The last stage of INT and MUL (R199): compute, broadcast, complete. HALT only completes. -/
def aluLast (op : UnitLatch) (s : State) : Out :=
  match aluResult op with
  | some v => seq (deliver { op with result := v } s) (robComplete op.rob)
  | none => robComplete op.rob s

/-- The outcome of a branch at `pc` (R253): taken, target. -/
def branchOutcome (op : UnitLatch) (pc : Word) : Option (Bool × Word) :=
  match op.opcode with
  | .bz => some (bzTaken (zeroOf op.vals), bzTarget pc op.imm)
  | .bnz => some (bnzTaken (zeroOf op.vals), bnzTarget pc op.imm)
  | .jump => some (jumpTaken, jumpTarget (op.val 1) op.imm)
  | .add | .sub | .and | .or | .xor | .mul | .movc | .load | .ldr | .store | .str | .halt => none

/-- A branch's ROB entry with its resolved outcome (R253, R254). -/
def RobEntry.resolved (taken : Bool) (target : Word) (e : RobEntry) : RobEntry :=
  let f := { e with actTaken := taken, actTarget := target }
  { f with mispredicted := mispredict f, complete := true }

/-- The last stage of the branch unit (R253). -/
def branchLast (op : UnitLatch) (s : State) : Out :=
  match robAt s op.rob with
  | none => .fault (.robSlot op.rob)
  | some e =>
    match branchOutcome op e.pc with
    | some (taken, target) => robUpdate op.rob (RobEntry.resolved taken target) s
    | none => .fault (.robSlot op.rob)

/-- `execute_last_stage` of a unit (R199). -/
def lastStage (c : UnitClass) (op : UnitLatch) (s : State) : Out :=
  match c with
  | .int => aluLast op s
  | .mul => aluLast op s
  | .br => branchLast op s
  | .mem => memLast op s

/-- The operation in the last stage of a unit, if any. -/
def lastOp (l : List (Option UnitLatch)) : Option UnitLatch := (l.getLast?).join

/-- The evaluation of one unit in a tick (R196). -/
def evalUnit (c : UnitClass) (s : State) : Out :=
  match lastOp (unitStages c s) with
  | some op => seq (lastStage c op s) fun t => .next (setUnit c (advance (unitStages c t)) t)
  | none => .next (setUnit c (advance (unitStages c s)) s)

end Sys2Proof.Machine
end

