-- ==== Sys2Proof/Machine/IssueQueue.lean ====
section
/-! DEFINITION. The issue queue: readiness (R181), select (R182) and issue (R183). -/

namespace Sys2Proof.Machine

/-- A valid entry is ready iff all its sources are (R181). -/
def IqEntry.ready (e : IqEntry) : Bool := e.src.all SrcTag.ready

/-- The candidate of smallest age among the valid entries that satisfy `ok`, with its slot counted from `q` (R182). -/
def oldestOf (ok : IqEntry → Bool) (age : IqEntry → Nat) : Nat → List (Option IqEntry) → Option (Nat × IqEntry)
  | _, [] => none
  | q, none :: l => oldestOf ok age (q + 1) l
  | q, some e :: l =>
    if ok e then
      match oldestOf ok age (q + 1) l with
      | none => some (q, e)
      | some (q', e') => if age e' < age e then some (q', e') else some (q, e)
    else oldestOf ok age (q + 1) l

/-- The entry Issue selects for a unit class: the oldest valid, ready entry of the class (R182). -/
def selectFor (c : UnitClass) (s : State) : Option (Nat × IqEntry) :=
  oldestOf (fun e => decide (unitClass e.opcode = c) && e.ready) (fun e => robAge s e.rob) 0 s.iq

/-- The operand values of an entry (R183), or the first register that is not valid (R137). -/
def readOperands (s : State) : List SrcTag → Except Nat (List Word)
  | [] => .ok []
  | t :: ts =>
    match prfRead s t.p with
    | none => .error t.p
    | some v =>
      match readOperands s ts with
      | .error p => .error p
      | .ok vs => .ok (v :: vs)

/-- The latch Issue writes into stage 1 (R183). R183 does not name the scratch fields `result` and `addr`: that they start at 0 is
the model's (DESIGN CHOICE, log 20; the last stage writes them before it reads them, R199, R284). -/
def issueLatch (e : IqEntry) (vs : List Word) : UnitLatch :=
  { stalled := false, opcode := e.opcode, rob := e.rob, lsq := e.lsq, pd := e.pd, vals := vs, imm := e.imm,
    result := 0, addr := 0 }

/-- Issue of the entry `e` in slot `q` to unit `c` (R183). -/
def issueEntry (c : UnitClass) (q : Nat) (e : IqEntry) (s : State) : Out :=
  match readOperands s e.src with
  | .error p => .fault (.invalidPhysRead p)
  | .ok vs => .next (setUnit c ((unitStages c s).set 0 (some (issueLatch e vs))) { s with iq := s.iq.set q none })

/-- Stage 1 of a unit is empty (R182). -/
def stage1Free (c : UnitClass) (s : State) : Bool := ((unitStages c s)[0]?).join.isNone

/-- Select and issue for one class: at most one entry (R182). -/
def issueClass (c : UnitClass) (s : State) : Out :=
  if stage1Free c s then
    match selectFor c s with
    | none => .next s
    | some (q, e) => issueEntry c q e s
  else .next s

/-- Issue, once per tick, classes in the order MEM, BR, MUL, INT (R182). -/
def issue (s : State) : Out :=
  seq (issueClass .mem s) fun a => seq (issueClass .br a) fun b => seq (issueClass .mul b) (issueClass .int)

end Sys2Proof.Machine
end

