-- ==== Sys2Proof/Machine/Driver.lean ====
section
/-! DEFINITION. The pipeline driver: the tick (R360), the done predicate (R345), and the host interface (R366 to R371, R410,
R411). -/

namespace Sys2Proof.Machine

/-- Nothing in flight and nothing more to fetch: the drain clause of `done` (R345). -/
def drained (s : State) : Bool :=
  decide (s.robCount = 0) && s.dr.isNone && !s.fetchRecover && !inRange s s.pc

/-- The cycle budget is used up (R345, R370); a machine without a budget never is (log 2). -/
def budgetSpent (s : State) : Bool :=
  match s.cfg.cycleBudget with
  | some b => decide (b ≤ s.cycle)
  | none => false

/-- `done` (R345). It is computed, not stored (R20; log 10). -/
def done (s : State) : Bool := s.halted || s.error.isSome || drained s || budgetSpent s

/-- `cycle <- cycle + 1` (R360, step 8). -/
def bumpCycle (s : State) : State := { s with cycle := s.cycle + 1 }

/-- The four units, in the order MEM, BR, MUL, INT (R196, R360 step 3). -/
def evalUnits (s : State) : Out :=
  seq (evalUnit .mem s) fun a => seq (evalUnit .br a) fun b => seq (evalUnit .mul b) (evalUnit .int)

/-- Steps 2 to 5 of the tick: what Fetch finds done when its turn comes (R360). -/
def beforeFetch (s : State) : Out :=
  seq (lsqLoadAccess s) fun a => seq (evalUnits a) fun b => seq (issue b) dispatch

/-- The tick of an engine that is not done (R360): commit; then, unless it raised the error, the stages from the tail toward
the head; then the cycle count. -/
def tickStages (s : State) : Out :=
  seq (commit s) fun t =>
  if t.error.isSome then .next (bumpCycle t)
  else seq (beforeFetch t) fun u => seq (fetch u) fun v => .next (bumpCycle v)

/-- `tick()` (R360); nothing changes on a done engine (R369). -/
def tick (s : State) : Out := if done s then .next s else tickStages s

/-! ### Host interface -/

/-- `initialize(program)` of a checked instruction list (R366, R410): the lowest index that is malformed is reported as
`UnknownOpcode(k)` (R384), else the reset state (R46). `INIT_MEM` is a map on `0..DATA_MEM_SIZE-1` (R411): a pair outside it is
no part of the image. -/
def initializeFrom (c : Params) (initReg : List Word) (initMem : List (Nat × Word)) (p : Except Nat (List Instr)) :
    Except Nat State :=
  match p with
  | .error k => .error k
  | .ok is => .ok (State.initial c is initReg (Memory.ofList (initMem.filter fun x => decide (x.1 < c.dataMemSize))))

/-- `initialize` of a program given as records (R100, R366). -/
def initializeRecords (c : Params) (rs : List StaticRecord) (initReg : List Word) (initMem : List (Nat × Word)) :
    Except Nat State :=
  initializeFrom c initReg initMem (validateProgram c.numArch rs)

/-- `initialize` of a program given as packed words (R102, R366). -/
def initializeWords (c : Params) (ws : List Word) (initReg : List Word) (initMem : List (Nat × Word)) :
    Except Nat State :=
  initializeFrom c initReg initMem (decodeProgram c.numArch ws)

/-- What `architecturalState` shows (R48). -/
structure ArchState where
  registers : List Word
  memory    : Memory
  deriving DecidableEq, Repr

/-- The committed registers `R0..` in order (R48). -/
def registers (s : State) : List Word := (List.range s.cfg.numArch).map (readReg s)

/-- `architecturalState(Engine)` (R48, R368). -/
def architecturalState (s : State) : ArchState := { registers := registers s, memory := s.dmem }

/-- The host-visible outcome of a run (R371). -/
inductive RunOutcome where
  | halted
  | drained
  | fault (e : AddrError)
  | budget
  deriving DecidableEq, Repr

/-- The outcome of a run that stands at `s` when its budget ran out or it is done (R371). -/
def runOutcome (s : State) : RunOutcome :=
  match s.error with
  | some e => .fault e
  | none => if s.halted then .halted else if drained s then .drained else .budget

/-- `run` from an engine: up to `budget` ticks, none on a done engine (R370). -/
def runFor : Nat → State → Out
  | 0, s => .next s
  | n + 1, s => if done s then .next s else seq (tick s) (runFor n)

end Sys2Proof.Machine
end

