-- ==== Sys2Proof/Machine/Step.lean ====
section
/-! DEFINITION. The machine's step, which is the tick (R9, R367), and the loading of one instruction where Fetch reads next. -/

namespace Sys2Proof.Machine

/-- `step(Engine)` (R367): one tick. The flag it returns to the host is `done` of the next state. The state is handed back whole, so
`cycle`, `committed`, `halted`, `error` and `last_stall` can each be read: R43 leaves that to the model. DESIGN CHOICE, log 19. -/
def step (s : State) : Host.Outcome State Fault Refusal := tick s

/-- `s` with the instruction of the table word `w` as the program's instruction at the pc, ready for the very next Fetch: the
run is not over, no flush is being recovered from, the `DR` latch is empty. That step is the tick that fetches it, and the tick does
no more with it: an instruction advances at most one stage per tick (R360, R361). Where the pc names no instruction, the program is
that one instruction and the pc is the entry point. A word that is no instruction leaves `s` alone (R384). Log 8. -/
def State.withFetchWord (s : State) (nbits w : Nat) : State :=
  match decodeTableWord nbits w with
  | none => s
  | some i =>
    let t := { s with halted := false, error := none, fetchRecover := false, dr := none,
                      cfg := { s.cfg with cycleBudget := s.cfg.cycleBudget.map (· + s.cycle + 1) } }
    if inRange s s.pc then { t with prog := s.prog.set (codeIndex s s.pc) i }
    else { t with prog := [i], pc := BitVec.ofNat 32 s.cfg.codeBase }

end Sys2Proof.Machine
end

