-- ==== Sys2Proof/Machine/Reference.lean ====
section
/-! DEFINITION. The in-order reference interpreter (R220), and the view of an engine as a state of it. -/

namespace Sys2Proof.Machine

/-- The state of the reference interpreter (R220): `x`, `z`, `pc`, `DMEM`, and how it stopped. -/
structure RefState where
  x      : List Word
  z      : Bool
  pc     : Word
  dmem   : Memory
  halted : Bool
  error  : Option AddrError
  deriving DecidableEq, Repr

namespace Ref

/-- `x[i]` (R8). A register that does not exist reads as 0 (log 21). -/
def reg (r : RefState) (i : Nat) : Word := r.x.getD i 0

/-- `x[rd] <- v; z <- (v = 0)` (R220). -/
def write (rd : Nat) (v : Word) (r : RefState) : RefState := { r with x := r.x.set rd v, z := isZero v }

/-- A load from `a` by the instruction at `own` (R280, R281, R383). -/
def load (c : Params) (own : Word) (rd : Nat) (a : Word) (r : RefState) : RefState :=
  if a.toNat < c.dataMemSize then write rd (r.dmem.read a.toNat) r else { r with error := some ⟨own, a⟩ }

/-- A store of `v` at `a` by the instruction at `own` (R282, R283, R383). -/
def store (c : Params) (own a v : Word) (r : RefState) : RefState :=
  if a.toNat < c.dataMemSize then { r with dmem := r.dmem.write a.toNat v } else { r with error := some ⟨own, a⟩ }

/-- The reference semantics of the instruction at `own`, performed after `pc <- pc + 4` (R221 to R226, R240, R250 to R252,
R280 to R283, R346). -/
def perform (c : Params) (own : Word) (i : Instr) (r : RefState) : RefState :=
  match i with
  | .add rd rs1 rs2 => write rd (reg r rs1 + reg r rs2) r
  | .sub rd rs1 rs2 => write rd (reg r rs1 - reg r rs2) r
  | .and rd rs1 rs2 => write rd (reg r rs1 &&& reg r rs2) r
  | .or rd rs1 rs2 => write rd (reg r rs1 ||| reg r rs2) r
  | .xor rd rs1 rs2 => write rd (reg r rs1 ^^^ reg r rs2) r
  | .mul rd rs1 rs2 => write rd (reg r rs1 * reg r rs2) r
  | .movc rd imm => write rd (sext32 imm) r
  | .load rd rs1 imm => load c own rd (reg r rs1 + sext32 imm) r
  | .ldr rd rs1 rs2 => load c own rd (reg r rs1 + reg r rs2) r
  | .store rs1 rs2 imm => store c own (reg r rs2 + sext32 imm) (reg r rs1) r
  | .str rs1 rs2 rs3 => store c own (reg r rs2 + reg r rs3) (reg r rs1) r
  | .bz imm => if r.z then { r with pc := own + sext32 imm } else r
  | .bnz imm => if r.z then r else { r with pc := own + sext32 imm }
  | .jump rs1 imm => { r with pc := reg r rs1 + sext32 imm }
  | .halt => { r with halted := true }

/-- One instruction of the interpreter: `pc <- pc + 4`, then the instruction's reference semantics, which may overwrite `pc`
(R220). -/
def exec (c : Params) (i : Instr) (r : RefState) : RefState := perform c r.pc i { r with pc := nextSeq r.pc }

/-- The instruction at a pc value of a program (R71, R151). -/
def fetchAt (c : Params) (prog : List Instr) (pc : Word) : Option Instr :=
  let o := (pc - BitVec.ofNat 32 c.codeBase).toNat
  if o % Config.instrWidth = 0 then prog[o / Config.instrWidth]? else none

/-- One instruction of the interpreter, if there is one to execute: none after HALT or the error, none when the pc is not in
range (R220). -/
def step? (c : Params) (prog : List Instr) (r : RefState) : Option RefState :=
  if r.halted || r.error.isSome then none else (fetchAt c prog r.pc).map fun i => exec c i r

/-- The interpreter after `k` instructions, if it gets that far. -/
def after (c : Params) (prog : List Instr) : Nat → RefState → Option RefState
  | 0, r => some r
  | k + 1, r => (step? c prog r).bind (after c prog k)

/-- The initial state of the interpreter (R220, R411). -/
def init (c : Params) (initReg : List Word) (initMem : Memory) : RefState :=
  { x := (List.range c.numArch).map fun i => initReg.getD i 0, z := false, pc := BitVec.ofNat 32 c.codeBase, dmem := initMem,
    halted := false, error := none }

end Ref

/-- An engine with nothing in flight, seen as a state of the interpreter (R8, R23, R48). -/
def refView (s : State) : RefState :=
  { x := registers s, z := zeroCond s, pc := s.pc, dmem := s.dmem, halted := s.halted, error := s.error }

end Sys2Proof.Machine
end

