-- ==== Sys2Proof/Safety.lean ====
section
/-! DEFINITION. What claims speak of: instruction boundaries, the structural invariants of R47 with R25, R32, R39 and R140,
reachable engines, and safe runs. The clauses beyond R47's own words are DEDUCED, log 15. -/

namespace Sys2Proof.Machine

/-! ### Program order -/

/-- The slot of the ROB entry of age `k` (R36). -/
def robSlotAt (s : State) (k : Nat) : Nat := (s.robHead + k) % s.cfg.robSize

/-- The valid ROB entries with their slots, oldest first (R36). -/
def robInOrder (s : State) : List (Nat × RobEntry) :=
  (List.range s.robCount).filterMap fun k => (robAt s (robSlotAt s k)).map (Prod.mk (robSlotAt s k))

/-- The operations in the units' stages (R34). -/
def unitOps (s : State) : List UnitLatch :=
  s.memU.filterMap id ++ s.brU.filterMap id ++ s.mulU.filterMap id ++ s.intU.filterMap id

/-- The entries of the issue queue. -/
def iqEntries (s : State) : List IqEntry := s.iq.filterMap id

/-- A load whose address is known and which still waits for its access (R286). -/
def LsqEntry.waiting (q : LsqEntry) : Bool := !q.isStore && q.addrValid && !q.done

/-- The ROB indices of the operations that are still on their way: in the issue queue, in a unit, or a load waiting in the
LSQ. -/
def inProgress (s : State) : List Nat :=
  (iqEntries s).map IqEntry.rob ++ (unitOps s).map UnitLatch.rob ++
    ((lsqInOrder s).map Prod.snd |>.filter LsqEntry.waiting |>.map LsqEntry.rob)

/-! ### Renaming replayed over the ROB (R47 (f), (g)) -/

/-- The map after the instruction of a ROB entry was renamed (R133). -/
def RobEntry.mapAfter (e : RobEntry) (m : List Nat) : List Nat :=
  match e.pd with
  | some p => m.set e.rd p
  | none => m

/-- `zsrc` after the instruction of a ROB entry was renamed (R133). -/
def RobEntry.zsrcAfter (e : RobEntry) (z : Option Nat) : Option Nat :=
  match e.pd with
  | some p => some p
  | none => z

/-- The map after all entries of a list, oldest first. -/
def replayMap : List Nat → List RobEntry → List Nat
  | m, [] => m
  | m, e :: es => replayMap (e.mapAfter m) es

/-- `zsrc` after all entries of a list, oldest first. -/
def replayZsrc : Option Nat → List RobEntry → Option Nat
  | z, [] => z
  | z, e :: es => replayZsrc (e.zsrcAfter z) es

/-- Every entry's `prev` is the mapping of its `rd` before it (R47 (f)), and every branch's checkpoint is the map and `zsrc`
before it (R135, R331). -/
def renameChain : List Nat → Option Nat → List RobEntry → List Checkpoint → Bool
  | _, _, [], cks => cks.isEmpty
  | m, z, e :: es, cks =>
    (if e.pd.isSome then decide (e.prev = m[e.rd]?) else true) &&
    (if isBranch e.opcode then
      match cks with
      | ck :: rest => decide (ck.rat = m) && decide (ck.zsrc = z) && renameChain (e.mapAfter m) (e.zsrcAfter z) es rest
      | [] => false
    else renameChain (e.mapAfter m) (e.zsrcAfter z) es cks)

/-- The map that the instruction in ROB slot `r` was renamed under. -/
def mapBefore (s : State) (r : Nat) : List Nat :=
  replayMap s.rrat (((robInOrder s).take (robAge s r)).map Prod.snd)

/-! ### The invariants -/

/-- Sizes of the tables, queues, units and checkpoints (R24 to R40). -/
abbrev Shape (s : State) : Prop :=
  s.prf.length = s.cfg.numPhys ∧ s.free.length = s.cfg.numPhys ∧ s.rat.length = s.cfg.numArch ∧
  s.rrat.length = s.cfg.numArch ∧ s.iq.length = s.cfg.iqSize ∧ s.intU.length = Config.intDepth ∧
  s.mulU.length = Config.mulDepth ∧ s.brU.length = Config.brDepth ∧ s.memU.length = Config.memDepth ∧
  s.rob.length = s.cfg.robSize ∧ s.lsq.length = s.cfg.lsqSize ∧ s.btb.length = s.cfg.btbSize ∧
  s.bis.length ≤ s.cfg.bisSize ∧ ∀ ck ∈ s.bis, ck.rat.length = s.cfg.numArch

/-- The ROB and the LSQ are circular queues: the valid entries are those of age below the count (R36, R38). -/
abbrev Rings (s : State) : Prop :=
  s.robHead < s.cfg.robSize ∧ s.robCount ≤ s.cfg.robSize ∧
  s.robTail = (s.robHead + s.robCount) % s.cfg.robSize ∧
  (∀ k < s.cfg.robSize, (robAt s (robSlotAt s k)).isSome = decide (k < s.robCount)) ∧
  s.lsqHead < s.cfg.lsqSize ∧ s.lsqCount ≤ s.cfg.lsqSize ∧
  s.lsqTail = (s.lsqHead + s.lsqCount) % s.cfg.lsqSize ∧
  (∀ k < s.cfg.lsqSize, (lsqAt s (lsqSlotAt s k)).isSome = decide (k < s.lsqCount))

/-- The data memory is in canonical form and lists only indices that exist (R72, log 4). -/
abbrev MemOk (s : State) : Prop :=
  s.dmem.wf = true ∧ ∀ c ∈ s.dmem, c.1 < s.cfg.dataMemSize

/-- At most one BTB entry has a given tag, and the round-robin pointer is an index (R39). -/
abbrev BtbOk (s : State) : Prop :=
  ((s.btb.filterMap id).map BtbEntry.tag).Nodup ∧ s.btbRr < s.cfg.btbSize

/-- The physical registers in use: the committed ones and the destinations in flight (R25, R140). -/
def owned (s : State) : List Nat := s.rrat ++ robDests ((robInOrder s).map fun x => some x.2)

/-- Renaming (R25, R26, R47 (c), (e), (f), (g), R140): each register has exactly one owner or is free; an entry has a
destination register iff its opcode has a destination; the front map, `zsrc` and the checkpoints are what replaying the ROB
over the retirement map gives. -/
abbrev RenameOk (s : State) : Prop :=
  (owned s).Nodup ∧ (∀ p ∈ owned s, p < s.cfg.numPhys) ∧
  (∀ p < s.cfg.numPhys, s.free[p]? = some (decide (p ∉ owned s))) ∧
  (∀ x ∈ robInOrder s, x.2.pd.isSome = hasDest x.2.opcode ∧ x.2.prev.isSome = hasDest x.2.opcode ∧
    (hasDest x.2.opcode = true → x.2.rd < s.cfg.numArch)) ∧
  s.rat = replayMap s.rrat ((robInOrder s).map Prod.snd) ∧
  s.bis.map Checkpoint.rob = ((robInOrder s).filter fun x => isBranch x.2.opcode).map Prod.fst ∧
  (∃ z ∈ none :: s.rrat.map some,
    s.zsrc = replayZsrc z ((robInOrder s).map Prod.snd) ∧
    renameChain s.rrat z ((robInOrder s).map Prod.snd) s.bis = true)

/-- How many operands an operation of opcode `o` carries (R107, R157). -/
def arity (o : Opcode) (n : Nat) : Bool :=
  match o with
  | .add | .sub | .and | .or | .xor | .mul | .ldr | .store => n == 2
  | .load | .jump => n == 1
  | .str => n == 3
  | .movc | .halt => n == 0
  | .bz | .bnz => n == 0 || n == 1

/-- An operation on its way names the LSQ entry of its instruction, whose address is not known yet, iff it is a memory
operation (R47 (a)). -/
def lsqLink (s : State) (o : Opcode) (r : Nat) (l : Option Nat) : Bool :=
  match l with
  | none => !usesLsq o
  | some k => usesLsq o && (lsqAt s k).any fun q => decide (q.rob = r) && !q.addrValid

/-- An operation on its way is that of a valid ROB entry of the same instruction, not complete (R47 (a)). -/
def robLink (s : State) (o : Opcode) (r : Nat) (pd : Option Nat) : Bool :=
  (robAt s r).any fun e => decide (e.opcode = o) && decide (e.pd = pd) && !e.complete

/-- The operations on their way (R32, R34, R47 (a)): each is linked to its ROB and LSQ entries, has its operands, and is in a
unit of its class; a source is ready iff its register is valid and is mapped where the instruction was renamed (R144); an
incomplete ROB entry is on its way exactly once. -/
abbrev FlowOk (s : State) : Prop :=
  (∀ e ∈ iqEntries s, robLink s e.opcode e.rob e.pd = true ∧ lsqLink s e.opcode e.rob e.lsq = true ∧
    arity e.opcode e.src.length = true ∧
    ∀ t ∈ e.src, prfReady s t.p = some t.ready ∧ t.p ∈ mapBefore s e.rob) ∧
  (∀ op ∈ unitOps s, robLink s op.opcode op.rob op.pd = true ∧ lsqLink s op.opcode op.rob op.lsq = true ∧
    arity op.opcode op.vals.length = true) ∧
  (∀ c ∈ [UnitClass.mem, .br, .mul, .int], ∀ op ∈ (unitStages c s).filterMap id, unitClass op.opcode = c) ∧
  (inProgress s).Nodup ∧
  (∀ x ∈ robInOrder s, x.2.complete = decide (x.1 ∉ inProgress s))

/-- The load-store queue (R37, R47 (b), R290): its entries are the memory operations of the ROB in the same order, and an entry's
flags agree with its ROB entry's. -/
def lsqAgrees (s : State) (e : RobEntry) (q : LsqEntry) : Bool :=
  decide (q.isStore = isStoreOp e.opcode) && decide (q.pd = e.pd) && decide (q.done = e.complete) &&
  (if q.isStore then decide (q.done = q.addrValid) else (!q.done || q.addrValid)) &&
  decide (e.fault = (q.addrValid && !inData s q.addr)) && (!e.fault || (decide (e.faultAddr = q.addr) && q.done))

/-- The load-store queue (R47 (b)). -/
abbrev LsqOk (s : State) : Prop :=
  (lsqInOrder s).map (fun x => x.2.rob) = ((robInOrder s).filter fun x => usesLsq x.2.opcode).map Prod.fst ∧
  (∀ x ∈ lsqInOrder s, (robAt s x.2.rob).any (fun e => lsqAgrees s e x.2) = true) ∧
  (∀ x ∈ robInOrder s, usesLsq x.2.opcode = false → x.2.fault = false)

/-- Validity of physical registers (R24, R48, R323): a committed register is valid; a destination in flight is valid iff its
instruction is complete without a fault. -/
abbrev ValidOk (s : State) : Prop :=
  (∀ p ∈ s.rrat, prfReady s p = some true) ∧
  (∀ x ∈ robInOrder s, ∀ p ∈ x.2.pd, prfReady s p = some (x.2.complete && !x.2.fault))

/-- A mispredicted entry is a resolved branch, and its flag is the predicate of R254. -/
abbrev BranchOk (s : State) : Prop :=
  ∀ x ∈ robInOrder s, x.2.mispredicted = (isBranch x.2.opcode && x.2.complete && mispredict x.2)

/-- The `DR` latch holds an instruction whose used register fields name registers (R30, R110). -/
abbrev DrOk (s : State) : Prop :=
  ∀ d ∈ s.dr, (hasDest d.opcode = true → d.rd < s.cfg.numArch) ∧ ∀ r ∈ srcRegs d, r < s.cfg.numArch

/-- The parameters and the program are ones `initialize` accepts (R6, R384). -/
abbrev SetupOk (s : State) : Prop :=
  s.cfg.Legal s.prog.length ∧ ∀ i ∈ s.prog, i.wellFormed s.cfg.numArch = true

/-- The structural invariant of the engine at every tick boundary (R47). -/
abbrev EngineInv (s : State) : Prop :=
  SetupOk s ∧ Shape s ∧ Rings s ∧ MemOk s ∧ BtbOk s ∧ RenameOk s ∧ FlowOk s ∧ LsqOk s ∧ ValidOk s ∧ BranchOk s ∧ DrOk s

/-! ### Instruction boundaries -/

/-- Nothing in flight: every queue, latch and checkpoint is empty and no flush is being recovered from (R47 (d)). -/
abbrev Quiescent (s : State) : Prop :=
  s.robCount = 0 ∧ s.dr = none ∧ s.fetchRecover = false

/-- The renaming state at an instruction boundary: tables of their sizes, the front map is the retirement map, every committed
register exists, has one owner and is not free, and some register is free (R25, R140, R145, R347). -/
abbrev AtBoundary (s : State) : Prop :=
  s.prf.length = s.cfg.numPhys ∧ s.free.length = s.cfg.numPhys ∧ s.rrat.length = s.cfg.numArch ∧ s.rat = s.rrat ∧
  s.rrat.Nodup ∧ (∀ p ∈ s.rrat, s.free[p]? = some false) ∧ (pickFree s).isSome = true

/-! ### Frames: what an instruction's own effect leaves alone -/

/-- The parameters, the program, the queues and latches that hold instructions in flight, the tick count and the stall
record. -/
abbrev SamePipeline (s t : State) : Prop :=
  t.cfg = s.cfg ∧ t.prog = s.prog ∧ t.fetchRecover = s.fetchRecover ∧ t.dr = s.dr ∧
  t.intU = s.intU ∧ t.mulU = s.mulU ∧ t.brU = s.brU ∧ t.memU = s.memU ∧
  t.rob = s.rob ∧ t.robHead = s.robHead ∧ t.robTail = s.robTail ∧ t.robCount = s.robCount ∧
  t.lsq = s.lsq ∧ t.lsqHead = s.lsqHead ∧ t.lsqTail = s.lsqTail ∧ t.lsqCount = s.lsqCount ∧
  t.bis = s.bis ∧ t.cycle = s.cycle ∧ t.lastStall = s.lastStall

/-- The prediction state (R39). -/
abbrev SamePrediction (s t : State) : Prop :=
  t.btb = s.btb ∧ t.btbRr = s.btbRr ∧ t.victimDraws = s.victimDraws

/-- The renaming state, the physical registers and the issue queue (R24 to R27, R33). -/
abbrev SameRenaming (s t : State) : Prop :=
  t.prf = s.prf ∧ t.free = s.free ∧ t.rat = s.rat ∧ t.zsrc = s.zsrc ∧ t.rrat = s.rrat ∧ t.iq = s.iq

/-- The two ends of a run (R43). -/
abbrev SameEnd (s t : State) : Prop := t.halted = s.halted ∧ t.error = s.error

/-- Every word of memory reads as before. -/
def SameMemory (s t : State) : Prop := ∀ a, t.dmem.read a = s.dmem.read a

/-- An instruction with destination `rd` and result `v` has run and nothing else has changed: `Ri` reads `v` for `i = rd` and
as before for every other `i`, the zero condition is that of `v`, the next instruction follows, one more instruction is
committed. In the renaming block the lowest-numbered free register holds `v` and is the mapping of `rd` in both maps and the
zero-condition source, the previous register of `rd` is free, no other physical register changes, and an issue-queue entry
changes only by the wake-up of that register (R23, R133, R134, R180, R220). -/
def WritesDest (rd : Nat) (v : Word) (s t : State) : Prop :=
  readReg t rd = v ∧ (∀ i, i ≠ rd → readReg t i = readReg s i) ∧ zeroCond t = isZero v ∧
  t.pc = nextSeq s.pc ∧ t.committed = s.committed + 1 ∧ AtBoundary t ∧
  (∃ p prev, pickFree s = some p ∧ s.rrat[rd]? = some prev ∧ t.prf = s.prf.set p ⟨v, true⟩ ∧
    t.free = (s.free.set p false).set prev true ∧ t.rat = s.rat.set rd p ∧ t.rrat = s.rrat.set rd p ∧ t.zsrc = some p ∧
    t.iq = s.iq.map (Option.map (IqEntry.wake p))) ∧
  SameMemory s t ∧ SamePipeline s t ∧ SamePrediction s t ∧ SameEnd s t

/-- A store of `v` at `a` has run and nothing else has changed (R282, R283). -/
def WritesWord (a v : Word) (s t : State) : Prop :=
  t.dmem.read a.toNat = v ∧ (∀ b, b ≠ a.toNat → t.dmem.read b = s.dmem.read b) ∧ t.dmem.wf = true ∧
  t.pc = nextSeq s.pc ∧ t.committed = s.committed + 1 ∧
  SameRenaming s t ∧ SamePipeline s t ∧ SamePrediction s t ∧ SameEnd s t

/-- A branch has run: execution goes on at `next`, and nothing else has changed but the prediction state (R250 to R252). -/
def BranchesTo (next : Word) (s t : State) : Prop :=
  t.pc = next ∧ t.committed = s.committed + 1 ∧
  SameRenaming s t ∧ SameMemory s t ∧ SamePipeline s t ∧ SameEnd s t

/-- The bits of a word that an opcode reads (R102, R108). -/
def usedBits : Opcode → Word
  | .add | .sub | .and | .or | .xor | .mul | .ldr => 0xFFFF0000
  | .movc => 0xFF00FFFF
  | .load => 0xFFF0FFFF
  | .store => 0xF0FFFFFF
  | .str => 0xF0FFF000
  | .bz | .bnz => 0xF000FFFF
  | .jump => 0xF0F0FFFF
  | .halt => 0xF0000000

/-! ### Running one instruction through the engine -/

/-- The address a load reads from (R280, R281). -/
def loadAddress (i : Instr) (s : State) : Option Word :=
  match i with
  | .load _ rs1 imm => some (loadAddr (readReg s rs1) (sext32 imm))
  | .ldr _ rs1 rs2 => some (ldrAddr (readReg s rs1) (readReg s rs2))
  | .add _ _ _ | .sub _ _ _ | .and _ _ _ | .or _ _ _ | .xor _ _ _ | .mul _ _ _ | .movc _ _ | .store _ _ _ | .str _ _ _
  | .bz _ | .bnz _ | .jump _ _ | .halt => none

/-- How many ticks the engine needs from the fetch of an instruction to its retirement, or to the raising of its error, when
nothing older is in flight (R361, R416): an access out of range ends one tick earlier than a load that is performed. -/
def soloTicks (i : Instr) (s : State) : Nat :=
  match i with
  | .add _ _ _ | .sub _ _ _ | .and _ _ _ | .or _ _ _ | .xor _ _ _ | .movc _ _ | .halt => 6
  | .mul _ _ _ => 7
  | .bz _ | .bnz _ | .jump _ _ | .store _ _ _ | .str _ _ _ => 5
  | .load _ _ _ | .ldr _ _ _ => if (loadAddress i s).any (inData s) then 6 else 5

/-- Nothing in any queue or unit (R47 (d)). -/
abbrev NothingInFlight (s : State) : Prop :=
  s.robCount = 0 ∧ s.lsqCount = 0 ∧ (∀ x ∈ s.rob, x = none) ∧ (∀ x ∈ s.lsq, x = none) ∧ (∀ x ∈ s.iq, x = none) ∧
  (∀ x ∈ s.intU, x = none) ∧ (∀ x ∈ s.mulU, x = none) ∧ (∀ x ∈ s.brU, x = none) ∧ (∀ x ∈ s.memU, x = none) ∧ s.bis = []

/-- The engine is about to fetch `i` with nothing in flight, is not done, and has enough left of a cycle budget, if it has one. -/
abbrev AboutToRun (i : Instr) (s : State) : Prop :=
  EngineInv s ∧ Quiescent s ∧ done s = false ∧ (∀ b ∈ s.cfg.cycleBudget, s.cycle + soloTicks i s ≤ b) ∧
  instrAt s s.pc = some i

/-- Two engines show the same committed state and the same progress (R43, R48). -/
abbrev SameArch (s t : State) : Prop :=
  registers s = registers t ∧ s.dmem = t.dmem ∧ s.committed = t.committed ∧ s.halted = t.halted ∧ s.error = t.error

/-- Two engines agree on every field but the tick count, the stall record and the positions of the two queues' heads and
tails: registers and renaming, memory, pc, latch, recovery flag, issue queue, units, contents and counts of ROB and LSQ,
checkpoints, prediction, status, parameters, program. -/
abbrev SameMachine (s t : State) : Prop :=
  t = { s with cycle := t.cycle, lastStall := t.lastStall, robHead := t.robHead, robTail := t.robTail,
               lsqHead := t.lsqHead, lsqTail := t.lsqTail }

/-- A fresh engine whose BTB holds `btb` and whose round-robin pointer is `rr` (R263, R340: "any BTB content"). -/
def primed (c : Params) (prog : List Instr) (initReg : List Word) (initMem : List (Nat × Word))
    (btb : List (Option BtbEntry)) (rr : Nat) : State :=
  { State.initial c prog initReg (Memory.ofList initMem) with btb := btb, btbRr := rr }

/-! ### Reachable engines, safe runs -/

/-- The engines that `initialize` and any number of ticks give (R366, R372). -/
def Reachable (s : State) : Prop :=
  ∃ c prog initReg initMem n, Params.Legal c prog.length ∧ (∀ i ∈ prog, i.wellFormed c.numArch = true) ∧
    (∀ x ∈ initMem, x.1 < c.dataMemSize) ∧
    Host.Core.run Sys2Proof.core n (State.initial c prog initReg (Memory.ofList initMem)) = .next s

/-- A safe run of `n` ticks: it neither faults nor is refused. -/
def SafeFor (n : Nat) (s : State) : Prop := ∃ t, Host.Core.run Sys2Proof.core n s = .next t

end Sys2Proof.Machine
end

