-- ==== Sys2Proof/Certificates/Slice0/Obligations.lean ====
section
/-! DEFINITION. The statements for the provers. Each docstring names the rules of the spec it formalises. -/

open Sys2Proof Sys2Proof.Machine

/-! ### Encoding -/

/-- Decoding the canonical word of a well-formed instruction gives the instruction back, every operand at every value
(R102, R105, R106). -/
def Obligations.DecodeEncodeRoundTrip : Prop :=
  ∀ (n : Nat) (i : Instr), n ≤ 16 → i.wellFormed n = true → decode (encode i) = .ok i

/-- The opcode nibble alone selects the instruction and the reserved nibble 0 alone is rejected, by name; a word that decodes gives a
well-formed instruction whose canonical word is that word with the unused bits cleared: every used bit is read, no unused bit
matters (R102, R106, R108, R109). -/
def Obligations.WordsReadExactly : Prop :=
  ∀ w : Word, (field w 28 4 = 0 → decode w = .error (.unknownOpcode 0)) ∧
    (field w 28 4 ≠ 0 → ∃ i, decode w = .ok i ∧ i.opcode.tag = field w 28 4 ∧ i.wellFormed 16 = true ∧
      encode i = w &&& usedBits i.opcode ∧ decode (w &&& usedBits i.opcode) = .ok i)

/-- The worked encodings (R114), read and written. -/
def Obligations.WorkedEncodings : Prop :=
  ∀ x ∈ [(0x70000005#32, Instr.movc 0 5), (0x7100000A#32, .movc 1 10), (0x12010000#32, .add 2 0 1),
      (0xA0200000#32, .store 2 0 0), (0xF0000000#32, .halt), (0xC0000008#32, .bz 8), (0xD000FFFC#32, .bnz (-4)),
      (0x63120000#32, .mul 3 1 2), (0x83200004#32, .load 3 2 4), (0x95240000#32, .ldr 5 2 4),
      (0xB0321000#32, .str 3 2 1), (0xE010000C#32, .jump 1 12), (0x20010000#32, .sub 0 0 1)],
    encode x.2 = x.1 ∧ decode x.1 = .ok x.2

/-- Slot usage (R107) and unit class (R115) of every instruction, read from the latch Fetch makes of it: destination, register
sources in slot order (BZ and BNZ: the zero-condition producer, if any), immediate (0 in the latch where the opcode uses none),
LSQ entry, branch, unit class; and an instruction with a destination, no other, becomes the zero-condition producer. -/
def Obligations.SlotUsageAndUnitClass : Prop :=
  ∀ (pc : Word) (rd rs1 rs2 rs3 : Nat) (imm : Int),
    (∀ x ∈ [(Instr.add rd rs1 rs2, UnitClass.int), (.sub rd rs1 rs2, .int), (.and rd rs1 rs2, .int), (.or rd rs1 rs2, .int),
        (.xor rd rs1 rs2, .int), (.mul rd rs1 rs2, .mul), (.ldr rd rs1 rs2, .mem)],
      hasDest x.1.opcode = true ∧ (drOf pc x.1).rd = rd ∧ srcRegs (drOf pc x.1) = [rs1, rs2] ∧ (drOf pc x.1).imm = 0 ∧
      isBranch x.1.opcode = false ∧ readsZero x.1.opcode = false ∧
      usesLsq x.1.opcode = decide (x.2 = .mem) ∧ unitClass x.1.opcode = x.2) ∧
    (hasDest .movc = true ∧ (drOf pc (.movc rd imm)).rd = rd ∧ srcRegs (drOf pc (.movc rd imm)) = [] ∧
      (drOf pc (.movc rd imm)).imm = sext32 imm ∧ usesLsq .movc = false ∧ isBranch .movc = false ∧
      readsZero .movc = false ∧ unitClass .movc = .int) ∧
    (hasDest .load = true ∧ (drOf pc (.load rd rs1 imm)).rd = rd ∧ srcRegs (drOf pc (.load rd rs1 imm)) = [rs1] ∧
      (drOf pc (.load rd rs1 imm)).imm = sext32 imm ∧ usesLsq .load = true ∧ isBranch .load = false ∧
      readsZero .load = false ∧ unitClass .load = .mem) ∧
    (hasDest .store = false ∧ srcRegs (drOf pc (.store rs1 rs2 imm)) = [rs1, rs2] ∧
      (drOf pc (.store rs1 rs2 imm)).imm = sext32 imm ∧ usesLsq .store = true ∧ isBranch .store = false ∧
      readsZero .store = false ∧ unitClass .store = .mem) ∧
    (hasDest .str = false ∧ srcRegs (drOf pc (.str rs1 rs2 rs3)) = [rs1, rs2, rs3] ∧
      (drOf pc (.str rs1 rs2 rs3)).imm = 0 ∧ usesLsq .str = true ∧ isBranch .str = false ∧
      readsZero .str = false ∧ unitClass .str = .mem) ∧
    (∀ x ∈ [Instr.bz imm, .bnz imm], hasDest x.opcode = false ∧ srcRegs (drOf pc x) = [] ∧ readsZero x.opcode = true ∧
      (∀ s : State, (s.zsrc = none → sourceTags (drOf pc x) s = some []) ∧
        (∀ p r, s.zsrc = some p → s.prf[p]? = some r → sourceTags (drOf pc x) s = some [⟨p, r.valid⟩])) ∧
      (drOf pc x).imm = sext32 imm ∧ usesLsq x.opcode = false ∧ isBranch x.opcode = true ∧ unitClass x.opcode = .br) ∧
    (hasDest .jump = false ∧ srcRegs (drOf pc (.jump rs1 imm)) = [rs1] ∧ (drOf pc (.jump rs1 imm)).imm = sext32 imm ∧
      usesLsq .jump = false ∧ isBranch .jump = true ∧ readsZero .jump = false ∧ unitClass .jump = .br) ∧
    (hasDest .halt = false ∧ srcRegs (drOf pc .halt) = [] ∧ (drOf pc .halt).imm = 0 ∧
      usesLsq .halt = false ∧ isBranch .halt = false ∧ readsZero .halt = false ∧ unitClass .halt = .int) ∧
    (∀ (d : DrLatch) (s : State),
      (∀ p, hasDest d.opcode = true → pickFree s = some p → (renameDest d (destReg d s) s).zsrc = some p) ∧
      (hasDest d.opcode = false → renameDest d (destReg d s) s = s))

/-! ### Reset and `initialize` -/

/-- The reset state (R46) of a machine of any parameters, for any program, with `INIT_REG` and `INIT_MEM` at their default of
all zero. -/
def Obligations.ResetState : Prop :=
  ∀ (c : Params) (prog : List Instr), c.numArch < c.numPhys →
    let s := State.initial c prog [] []
    s.cfg = c ∧ s.prog = prog ∧ s.pc = BitVec.ofNat 32 c.codeBase ∧ s.fetchRecover = false ∧ s.dr = none ∧
    (∀ p < c.numPhys, s.prf[p]? = some ⟨0, decide (p < c.numArch)⟩ ∧ s.free[p]? = some (decide (c.numArch ≤ p))) ∧
    (∀ i < c.numArch, s.rat[i]? = some i ∧ s.rrat[i]? = some i) ∧ s.zsrc = none ∧
    s.prf.length = c.numPhys ∧ s.free.length = c.numPhys ∧ s.rat.length = c.numArch ∧ s.rrat.length = c.numArch ∧
    s.iq = List.replicate c.iqSize none ∧
    s.intU = [none, none] ∧ s.mulU = [none, none, none] ∧ s.brU = [none] ∧ s.memU = [none] ∧
    s.rob = List.replicate c.robSize none ∧ s.robHead = 0 ∧ s.robTail = 0 ∧ s.robCount = 0 ∧
    s.lsq = List.replicate c.lsqSize none ∧ s.lsqHead = 0 ∧ s.lsqTail = 0 ∧ s.lsqCount = 0 ∧
    s.btb = List.replicate c.btbSize none ∧ s.btbRr = 0 ∧ s.bis = [] ∧ (∀ a < c.dataMemSize, s.dmem.read a = 0) ∧
    s.cycle = 0 ∧ s.committed = 0 ∧ s.halted = false ∧ s.error = none ∧ s.lastStall = .none ∧
    (∀ i < c.numArch, readReg s i = 0) ∧ zeroCond s = false

/-- The machine's reset state satisfies the invariant. The clauses beyond R47's words are the model's reading, log 15. -/
def Obligations.InvAtReset : Prop := EngineInv State.reset

/-- What `initialize` returns for a program of records satisfies the invariant, has the parameters and the program it was given
and the images it was given (R366, R410, R411). The invariant's clauses beyond R47's words are the model's reading, log 15; that
the images are lists, that a register or index they do not name has 0 and that the first pair of an index counts is the
model's, log 18. -/
def Obligations.InitializeEstablishesInv : Prop :=
  ∀ (c : Params) (rs : List StaticRecord) (initReg : List Word) (initMem : List (Nat × Word)) (s : State),
    c.Legal rs.length → initializeRecords c rs initReg initMem = .ok s →
    EngineInv s ∧ s.cfg = c ∧ s.prog.length = rs.length ∧
    (∀ (k : Nat) (r : StaticRecord), rs[k]? = some r → ∃ i, s.prog[k]? = some i ∧ r.toInstr = .ok i) ∧
    (∀ i < c.numArch, readReg s i = initReg.getD i 0) ∧
    (∀ a < c.dataMemSize, s.dmem.read a = ((initMem.find? fun x => decide (x.1 = a)).map Prod.snd).getD 0)

/-- `initialize` reports `UnknownOpcode(k)` exactly for the lowest index whose record is malformed: an opcode outside 1..15, or
an operand the opcode uses out of range (R109, R110, R384). -/
def Obligations.InitializeRejectsLowestBadRecord : Prop :=
  ∀ (c : Params) (rs : List StaticRecord) (initReg : List Word) (initMem : List (Nat × Word)),
    let good := fun r : StaticRecord => ∃ i, r.toInstr = .ok i ∧ i.wellFormed c.numArch = true
    (∀ k, initializeRecords c rs initReg initMem = .error k ↔
      (∃ r, rs[k]? = some r ∧ ¬ good r) ∧ ∀ j < k, ∀ r, rs[j]? = some r → good r) ∧
    (∀ r : StaticRecord, (∃ i, r.toInstr = .ok i) ↔ 1 ≤ r.opcode ∧ r.opcode ≤ 15)

/-- A packed program binds instruction `k` to word `k`; on a machine of sixteen registers it is accepted iff no word has the reserved
nibble; under parameters legal for the packing the engine satisfies the invariant (R6, R111, R366, R384; the invariant's
further clauses, log 15). -/
def Obligations.PackedProgramBinds : Prop :=
  ∀ (c : Params) (ws : List Word) (initReg : List Word) (initMem : List (Nat × Word)),
    (∀ s, initializeWords c ws initReg initMem = .ok s → s.prog.length = ws.length ∧
      (∀ (k : Nat) (w : Word), ws[k]? = some w → ∃ i, s.prog[k]? = some i ∧ decode w = .ok i) ∧
      (c.LegalPacked ws.length → EngineInv s)) ∧
    (c.numArch = 16 → ((∃ s, initializeWords c ws initReg initMem = .ok s) ↔ ∀ w ∈ ws, field w 28 4 ≠ 0))

/-! ### The instructions' own effects -/

/-- The six three-register operations: result, zero condition, completion and frame (R221 to R225, R227, R240, R220). -/
def Obligations.AluResults : Prop :=
  ∀ (s : State) (rd rs1 rs2 : Nat), AtBoundary s → rd < s.cfg.numArch → rs1 < s.cfg.numArch → rs2 < s.cfg.numArch →
    (∃ t, exec (.add rd rs1 rs2) s = .next t ∧ WritesDest rd (readReg s rs1 + readReg s rs2) s t) ∧
    (∃ t, exec (.sub rd rs1 rs2) s = .next t ∧ WritesDest rd (readReg s rs1 - readReg s rs2) s t) ∧
    (∃ t, exec (.and rd rs1 rs2) s = .next t ∧ WritesDest rd (readReg s rs1 &&& readReg s rs2) s t) ∧
    (∃ t, exec (.or rd rs1 rs2) s = .next t ∧ WritesDest rd (readReg s rs1 ||| readReg s rs2) s t) ∧
    (∃ t, exec (.xor rd rs1 rs2) s = .next t ∧ WritesDest rd (readReg s rs1 ^^^ readReg s rs2) s t) ∧
    (∃ t, exec (.mul rd rs1 rs2) s = .next t ∧
      WritesDest rd (BitVec.ofNat 32 ((readReg s rs1).toNat * (readReg s rs2).toNat)) s t)

/-- MOVC: the extended immediate (R226). -/
def Obligations.MovcResult : Prop :=
  ∀ (s : State) (rd : Nat) (imm : Int), AtBoundary s → rd < s.cfg.numArch → -32768 ≤ imm → imm ≤ 32767 →
    ∃ t, exec (.movc rd imm) s = .next t ∧ WritesDest rd (BitVec.ofInt 32 imm) s t

/-- LOAD and LDR from an address in range: the word there is the result (R280, R281). -/
def Obligations.LoadResults : Prop :=
  ∀ (s : State) (rd rs1 rs2 : Nat) (imm : Int), AtBoundary s →
    rd < s.cfg.numArch → rs1 < s.cfg.numArch → rs2 < s.cfg.numArch → -32768 ≤ imm → imm ≤ 32767 →
    ((readReg s rs1 + BitVec.ofInt 32 imm).toNat < s.cfg.dataMemSize →
      ∃ t, exec (.load rd rs1 imm) s = .next t ∧
        WritesDest rd (s.dmem.read (readReg s rs1 + BitVec.ofInt 32 imm).toNat) s t) ∧
    ((readReg s rs1 + readReg s rs2).toNat < s.cfg.dataMemSize →
      ∃ t, exec (.ldr rd rs1 rs2) s = .next t ∧
        WritesDest rd (s.dmem.read (readReg s rs1 + readReg s rs2).toNat) s t)

/-- STORE and STR to an address in range: the value register's word is there, every other word, every register and the zero
condition are as before (R282, R283). -/
def Obligations.StoreResults : Prop :=
  ∀ (s : State) (rs1 rs2 rs3 : Nat) (imm : Int), s.dmem.wf = true →
    rs1 < s.cfg.numArch → rs2 < s.cfg.numArch → rs3 < s.cfg.numArch → -32768 ≤ imm → imm ≤ 32767 →
    (∀ a, a = storeAddr (readReg s rs2) (sext32 imm) → a.toNat < s.cfg.dataMemSize →
      ∃ t, exec (.store rs1 rs2 imm) s = .next t ∧ WritesWord a (readReg s rs1) s t) ∧
    (∀ a, a = strAddr (readReg s rs2) (readReg s rs3) → a.toNat < s.cfg.dataMemSize →
      ∃ t, exec (.str rs1 rs2 rs3) s = .next t ∧ WritesWord a (readReg s rs1) s t)

/-- An access out of range raises `AddressOutOfRange(pc, a)` with the instruction's own pc, and nothing is read, written, committed
or freed; the pc is past the instruction, as the reference semantics move it before they raise (R77, R220, R280 to R283, R383,
R387). That the meaning shows the reference semantics' pc is the model's reading, log 12. -/
def Obligations.OutOfRangeRaisesError : Prop :=
  ∀ (s : State) (rd rs1 rs2 rs3 : Nat) (imm : Int),
    rd < s.cfg.numArch → rs1 < s.cfg.numArch → rs2 < s.cfg.numArch → rs3 < s.cfg.numArch → -32768 ≤ imm → imm ≤ 32767 →
    (s.cfg.dataMemSize ≤ (readReg s rs1 + BitVec.ofInt 32 imm).toNat →
      exec (.load rd rs1 imm) s = .next { s with
        pc := s.pc + 4, error := some ⟨s.pc, readReg s rs1 + BitVec.ofInt 32 imm⟩ }) ∧
    (s.cfg.dataMemSize ≤ (readReg s rs1 + readReg s rs2).toNat →
      exec (.ldr rd rs1 rs2) s = .next { s with
        pc := s.pc + 4, error := some ⟨s.pc, readReg s rs1 + readReg s rs2⟩ }) ∧
    (s.cfg.dataMemSize ≤ (readReg s rs2 + BitVec.ofInt 32 imm).toNat →
      exec (.store rs1 rs2 imm) s = .next { s with
        pc := s.pc + 4, error := some ⟨s.pc, readReg s rs2 + BitVec.ofInt 32 imm⟩ }) ∧
    (s.cfg.dataMemSize ≤ (readReg s rs2 + readReg s rs3).toNat →
      exec (.str rs1 rs2 rs3) s = .next { s with
        pc := s.pc + 4, error := some ⟨s.pc, readReg s rs2 + readReg s rs3⟩ })

/-- BZ, BNZ and JUMP: where execution goes on, the frame, and the training of the BTB, whose own rule is
`BtbUpdateTrains` (R250, R251, R252, R325). -/
def Obligations.BranchResults : Prop :=
  ∀ (s : State) (rs1 : Nat) (imm : Int), rs1 < s.cfg.numArch → -32768 ≤ imm → imm ≤ 32767 →
    (∃ t, exec (.bz imm) s = .next t ∧
      BranchesTo (if zeroCond s then s.pc + BitVec.ofInt 32 imm else s.pc + 4) s t ∧
      SamePrediction (btbUpdate s.pc (zeroCond s) (s.pc + BitVec.ofInt 32 imm) s) t) ∧
    (∃ t, exec (.bnz imm) s = .next t ∧
      BranchesTo (if zeroCond s then s.pc + 4 else s.pc + BitVec.ofInt 32 imm) s t ∧
      SamePrediction (btbUpdate s.pc (!zeroCond s) (s.pc + BitVec.ofInt 32 imm) s) t) ∧
    (∃ t, exec (.jump rs1 imm) s = .next t ∧
      BranchesTo (readReg s rs1 + BitVec.ofInt 32 imm) s t ∧
      SamePrediction (btbUpdate s.pc true (readReg s rs1 + BitVec.ofInt 32 imm) s) t)

/-- HALT stops the machine; no register, flag or memory changes (R326, R346). The pc is past it, as R220 moves it before the
instruction's semantics; that the meaning shows that pc is the model's reading, log 12. -/
def Obligations.HaltResult : Prop :=
  ∀ s : State, exec .halt s = .next { s with halted := true, pc := s.pc + 4, committed := s.committed + 1 }

/-- A malformed instruction is refused, by the name `unknownOpcode` alone; no other instruction is ever refused, by any name (R110,
R384). The refusal is the model's form of `UnknownOpcode`, log 9. -/
def Obligations.RefusesExactlyMalformed : Prop :=
  ∀ (i : Instr) (s : State) (r : Refusal),
    exec i s = .refused r ↔ r = .unknownOpcode ∧ i.wellFormed s.cfg.numArch = false

/-- With no free physical register an instruction that has a destination, and whose load address, if it has one, is in range,
waits: `last_stall` says so and nothing else changes (R155, R156, R381; the model's choice for `exec`, log 12). -/
def Obligations.NoFreeRegisterWaits : Prop :=
  ∀ (i : Instr) (s : State), i.wellFormed s.cfg.numArch = true → hasDest i.opcode = true → pickFree s = none →
    (∀ a, loadAddress i s = some a → a.toNat < s.cfg.dataMemSize) →
    exec i s = .next { s with lastStall := .registerExhausted }

/-- The meaning of every instruction agrees with the reference interpreter, and leaves an instruction boundary (R220 to R226,
R240, R250 to R252, R280 to R283, R346). The pc is compared after HALT and after the error too; that the meaning shows R220's pc
there, where the engine's own pc may have run ahead, is the model's reading, log 12. -/
def Obligations.ExecMatchesReference : Prop :=
  ∀ (i : Instr) (s : State), AtBoundary s → i.wellFormed s.cfg.numArch = true →
    ∃ t, exec i s = .next t ∧ refView t = Ref.exec s.cfg i (refView s) ∧ AtBoundary t

/-! ### Renaming -/

/-- `alloc()` hands out the lowest-numbered free register, takes it out of the pool and clears its valid bit, and changes nothing
else; there is none to hand out exactly if no register is free (R139). -/
def Obligations.AllocTakesLowestFree : Prop :=
  ∀ s : State, s.prf.length = s.free.length →
    (pickFree s = none ↔ ∀ q : Nat, s.free[q]? ≠ some true) ∧
    (∀ p, pickFree s = some p → s.free[p]? = some true ∧ (∀ q < p, s.free[q]? ≠ some true) ∧
      (∃ r, s.prf[p]? = some r ∧
        allocAt p s = { s with free := s.free.set p false, prf := s.prf.set p { r with valid := false } }))

/-- `rat_rename(rd)`: the new register is the mapping of `rd` and the zero-condition source, is not valid, and a later lookup
finds it not ready; every other mapping, the retirement map, every other register and the rest of the engine are as before
(R133). -/
def Obligations.RenameInstallsMapping : Prop :=
  ∀ (s : State) (rd p : Nat), pickFree s = some p → s.prf.length = s.free.length → rd < s.rat.length →
    let t := ratRename rd p s
    t.rat[rd]? = some p ∧ (∀ i, i ≠ rd → t.rat[i]? = s.rat[i]?) ∧ t.zsrc = some p ∧
    t.free[p]? = some false ∧ (∀ q, q ≠ p → t.free[q]? = s.free[q]? ∧ t.prf[q]? = s.prf[q]?) ∧
    (∀ r, s.prf[p]? = some r → t.prf[p]? = some { r with valid := false }) ∧ ratLookup t rd = some ⟨p, false⟩ ∧
    t = { s with rat := t.rat, zsrc := t.zsrc, free := t.free, prf := t.prf }

/-- `rat_retire(rd, pd, prev)`: the retirement map takes `pd`, `prev` is free, `Rrd` now reads the value of `pd`, a register of the
pool, and every other architectural register reads as before; nothing else changes (R134). -/
def Obligations.RetireCommitsMapping : Prop :=
  ∀ (s : State) (rd pd prev : Nat), rd < s.rrat.length → s.free[prev]? = some false →
    ∃ t, ratRetire rd pd prev s = .next t ∧ t = { s with rrat := s.rrat.set rd pd, free := s.free.set prev true } ∧
      (∀ r, s.prf[pd]? = some r → readReg t rd = r.value) ∧ (∀ i, i ≠ rd → readReg t i = readReg s i)

/-- Rename soundness and the ownership partition: on every engine that satisfies the invariant both maps are injective, a mapping is
the committed one or the destination of an entry in flight with that architectural register, and the free registers, the
committed ones and the destinations in flight make up the pool (R140, R141). -/
def Obligations.RenameSoundness : Prop :=
  ∀ s : State, EngineInv s → s.rat.Nodup ∧ s.rrat.Nodup ∧
    (∀ i < s.cfg.numArch, s.rat[i]? = s.rrat[i]? ∨
      ∃ x ∈ robInOrder s, x.2.rd = i ∧ x.2.pd = s.rat[i]? ∧ x.2.pd ≠ none) ∧
    s.free.count true + s.cfg.numArch + (robDests s.rob).length = s.cfg.numPhys

/-! ### Fetch -/

/-- `in_range(a)` (R151). -/
def Obligations.InRangeIff : Prop :=
  ∀ (s : State) (a : Word), inRange s a = true ↔
    (a - BitVec.ofNat 32 s.cfg.codeBase).toNat % 4 = 0 ∧ (a - BitVec.ofNat 32 s.cfg.codeBase).toNat / 4 < s.prog.length

/-- Fetch in all its cases (R150). A program `initialize` accepted has only well-formed instructions. -/
def Obligations.FetchReadsNext : Prop :=
  ∀ s : State, (∀ i ∈ s.prog, i.wellFormed s.cfg.numArch = true) →
    (s.fetchRecover = true → fetch s = .next { s with fetchRecover := false }) ∧
    (s.fetchRecover = false → s.dr ≠ none → fetch s = .next s) ∧
    (s.fetchRecover = false → s.dr = none → inRange s s.pc = false → fetch s = .next s) ∧
    (s.fetchRecover = false → s.dr = none → inRange s s.pc = true →
      ∃ i, s.prog[(s.pc - BitVec.ofNat 32 s.cfg.codeBase).toNat / 4]? = some i ∧
        fetch s = .next { s with
          dr := some
            { stalled := false, pc := s.pc, opcode := i.opcode, rd := i.toRecord.rd, rs1 := i.toRecord.rs1,
              rs2 := i.toRecord.rs2, rs3 := i.toRecord.rs3, imm := BitVec.ofInt 32 i.toRecord.imm }
          pc := s.pc + 4 })

/-! ### Dispatch -/

/-- The availability check and the effect of a stall: the register first, then the queues; nothing changes but `last_stall` and
the latch's `stalled` flag (R154, R155, R156). -/
def Obligations.DispatchStalls : Prop :=
  ∀ (s : State) (d : DrLatch), s.dr = some d →
    let full := s.robCount = s.cfg.robSize ∨ (∀ x ∈ s.iq, x.isSome = true) ∨
      (usesLsq d.opcode = true ∧ s.lsqCount = s.cfg.lsqSize) ∨ (isBranch d.opcode = true ∧ s.bis.length = s.cfg.bisSize)
    (hasDest d.opcode = true ∧ pickFree s = none →
      dispatch s = .next { s with lastStall := .registerExhausted, dr := some { d with stalled := true } }) ∧
    (¬ (hasDest d.opcode = true ∧ pickFree s = none) → full →
      dispatch s = .next { s with lastStall := .structuralStall, dr := some { d with stalled := true } }) ∧
    (¬ (hasDest d.opcode = true ∧ pickFree s = none) → ¬ full → stallReason d.opcode s = .none)

/-- A dispatch looks its sources up before it renames its destination: the entry it puts into the issue queue has, per register field
in slot order, the mapping and the valid bit of the map before the dispatch, even where the destination is one of the sources; BZ
and BNZ have the zero-condition source of before, if there is one; and the new mapping of the destination is none of the
sources that were in use, so the instruction never waits on itself (R157, R131, R132, R143). -/
def Obligations.SourcesLookedUpFirst : Prop :=
  ∀ (s : State) (d : DrLatch), s.dr = some d → stallReason d.opcode s = .none → Shape s →
    (hasDest d.opcode = true → d.rd < s.cfg.numArch) → (∀ r ∈ srcRegs d, r < s.cfg.numArch) →
    (∀ p ∈ s.rat, p < s.cfg.numPhys) → (∀ p ∈ s.zsrc, p < s.cfg.numPhys) →
    ∃ (t : State) (q : Nat) (e : IqEntry), dispatch s = .next t ∧ s.iq[q]? = some none ∧ t.iq[q]? = some (some e) ∧
      e.rob = s.robTail ∧
      sourceTags d s = some e.src ∧
      (readsZero d.opcode = false → e.src.length = (srcRegs d).length ∧
        ∀ (k r : Nat), (srcRegs d)[k]? = some r → ∃ x p, e.src[k]? = some x ∧ s.rat[r]? = some p ∧ x.p = p ∧
          s.prf[p]?.map PhysReg.valid = some x.ready) ∧
      (readsZero d.opcode = true → e.src.map SrcTag.p = s.zsrc.toList ∧
        ∀ x ∈ e.src, s.prf[x.p]?.map PhysReg.valid = some x.ready) ∧
      (hasDest d.opcode = true → ∃ p, t.rat = s.rat.set d.rd p ∧ t.rat[d.rd]? = some p ∧ e.pd = some p ∧
        ∀ x ∈ e.src, s.free[x.p]? = some false → x.p ≠ p)

/-- A dispatch with everything available: destination, ROB entry, LSQ entry, IQ entry, emptied latch, and the frame (R158 to
R161, R163, R164). -/
def Obligations.DispatchAllocates : Prop :=
  ∀ (s : State) (d : DrLatch) (src : List SrcTag), s.dr = some d → stallReason d.opcode s = .none →
    sourceTags d s = some src →
    ∃ t, dispatch s = .next t ∧
      (hasDest d.opcode = true → ∃ p, pickFree s = some p ∧ destReg d s = some p ∧ destPrev d s = s.rat[d.rd]? ∧
        t.rat = s.rat.set d.rd p ∧ t.zsrc = some p ∧ t.free = s.free.set p false ∧
        t.prf = s.prf.modify p PhysReg.invalidate) ∧
      (hasDest d.opcode = false → destReg d s = none ∧ destPrev d s = none ∧ t.rat = s.rat ∧ t.zsrc = s.zsrc ∧
        t.free = s.free ∧ t.prf = s.prf) ∧
      t.rob = s.rob.set s.robTail (some
        { pc := d.pc, opcode := d.opcode, rd := d.rd, pd := destReg d s, prev := destPrev d s, complete := false,
          predTaken := (predict d s).1, predTarget := (predict d s).2, actTaken := false, actTarget := 0,
          mispredicted := false, fault := false, faultAddr := 0 }) ∧
      t.robTail = (s.robTail + 1) % s.cfg.robSize ∧ t.robCount = s.robCount + 1 ∧
      (usesLsq d.opcode = true →
        t.lsq = s.lsq.set s.lsqTail (some
          { isStore := isStoreOp d.opcode, rob := s.robTail, addrValid := false, addr := 0, value := 0,
            pd := destReg d s, done := false }) ∧
        t.lsqTail = (s.lsqTail + 1) % s.cfg.lsqSize ∧ t.lsqCount = s.lsqCount + 1) ∧
      (usesLsq d.opcode = false → t.lsq = s.lsq ∧ t.lsqTail = s.lsqTail ∧ t.lsqCount = s.lsqCount) ∧
      (∃ q, s.iq[q]? = some none ∧ (∀ k < q, s.iq[k]? ≠ some none) ∧
        t.iq = s.iq.set q (some
          { opcode := d.opcode, src := src, pd := destReg d s, imm := d.imm, rob := s.robTail,
            lsq := if usesLsq d.opcode then some s.lsqTail else none })) ∧
      t.dr = none ∧ t.lastStall = .none ∧
      t.rrat = s.rrat ∧ t.dmem = s.dmem ∧ t.btb = s.btb ∧ t.btbRr = s.btbRr ∧ t.victimDraws = s.victimDraws ∧
      t.robHead = s.robHead ∧ t.lsqHead = s.lsqHead ∧ t.intU = s.intU ∧ t.mulU = s.mulU ∧ t.brU = s.brU ∧ t.memU = s.memU ∧
      t.fetchRecover = s.fetchRecover ∧ t.cycle = s.cycle ∧ t.committed = s.committed ∧ t.halted = s.halted ∧
      t.error = s.error ∧ t.cfg = s.cfg ∧ t.prog = s.prog

/-- A dispatched branch is predicted from the BTB, pushes a checkpoint of the map and `zsrc` with its own ROB index, and sends the
pc to a target predicted taken; any other instruction does none of this (R162, R255, R258). -/
def Obligations.BranchPredictsAndCheckpoints : Prop :=
  ∀ (s : State) (d : DrLatch) (src : List SrcTag), s.dr = some d → stallReason d.opcode s = .none →
    sourceTags d s = some src → s.robTail < s.rob.length →
    ∃ t e, dispatch s = .next t ∧ robAt t s.robTail = some e ∧
      (isBranch d.opcode = true →
        (∀ target, btbLookup s d.pc = (true, true, target) →
          e.predTaken = true ∧ e.predTarget = target ∧ t.pc = target) ∧
        ((btbLookup s d.pc).1 = false ∨ (btbLookup s d.pc).2.1 = false →
          e.predTaken = false ∧ e.predTarget = 0 ∧ t.pc = s.pc) ∧
        t.bis = s.bis ++ [{ rat := s.rat, zsrc := s.zsrc, rob := s.robTail }]) ∧
      (isBranch d.opcode = false → e.predTaken = false ∧ e.predTarget = 0 ∧ t.pc = s.pc ∧ t.bis = s.bis)

/-- With an empty ROB no instruction stalls: a stall for a register cannot deadlock (R145, R47 (d)). -/
def Obligations.EmptyMachineDispatches : Prop :=
  ∀ s : State, EngineInv s → s.robCount = 0 → NothingInFlight s ∧ s.rat = s.rrat ∧ ∀ o, stallReason o s = .none

/-! ### Issue queue -/

/-- `broadcast(p, v)`: the register holds the value and is valid, exactly the waiting slots with tag `p` become ready, and
nothing else changes (R180, R200, R137). -/
def Obligations.BroadcastWakesConsumers : Prop :=
  ∀ (s : State) (p : Nat) (v : Word), prfReady s p = some false →
    ∃ t, broadcast p v s = .next t ∧ t = { s with prf := s.prf.set p ⟨v, true⟩, iq := t.iq } ∧
      t.iq.length = s.iq.length ∧
      (∀ q : Nat, s.iq[q]? = some none → t.iq[q]? = some none) ∧
      (∀ (q : Nat) (e : IqEntry), s.iq[q]? = some (some e) → ∃ f, t.iq[q]? = some (some f) ∧
        f = { e with src := f.src } ∧ f.src.map SrcTag.p = e.src.map SrcTag.p ∧
        ∀ (k : Nat) (a b : SrcTag), e.src[k]? = some a → f.src[k]? = some b → b.ready = (a.ready || decide (a.p = p)))

/-- Select takes, for a class, a valid ready entry of that class than which none is older, and takes one whenever there is one
(R181, R182). -/
def Obligations.SelectOldestReady : Prop :=
  ∀ (s : State) (c : UnitClass),
    let candidate := fun e : IqEntry => unitClass e.opcode = c ∧ ∀ t ∈ e.src, t.ready = true
    (∀ (q : Nat) (e : IqEntry), selectFor c s = some (q, e) → s.iq[q]? = some (some e) ∧ candidate e ∧
      ∀ (q' : Nat) (e' : IqEntry), s.iq[q']? = some (some e') → candidate e' → robAge s e.rob ≤ robAge s e'.rob) ∧
    (selectFor c s = none → ∀ (q : Nat) (e : IqEntry), s.iq[q]? = some (some e) → ¬ candidate e)

/-- Issue moves the selected entry, with its operands' values, into stage 1 of its unit and takes it out of the queue; a busy stage 1
keeps the class waiting (R182, R183). That the scratch fields `result` and `addr` of the new latch are 0 is the model's choice,
log 20. -/
def Obligations.IssueFillsStageOne : Prop :=
  ∀ (s : State) (c : UnitClass),
    (∀ (op : UnitLatch), (unitStages c s)[0]? = some (some op) → issueClass c s = .next s) ∧
    (∀ (q : Nat) (e : IqEntry) (vs : List Word), (unitStages c s)[0]? = some none → selectFor c s = some (q, e) →
      e.src.map (fun t => s.prf[t.p]?) = vs.map (fun v => some ⟨v, true⟩) →
      ∃ t, issueClass c s = .next t ∧ t.iq = s.iq.set q none ∧
        unitStages c t = (unitStages c s).set 0 (some
          { stalled := false, opcode := e.opcode, rob := e.rob, lsq := e.lsq, pd := e.pd, vals := vs, imm := e.imm,
            result := 0, addr := 0 }) ∧
        (∀ c', c' ≠ c → unitStages c' t = unitStages c' s) ∧
        t = { s with iq := t.iq, intU := t.intU, mulU := t.mulU, brU := t.brU, memU := t.memU })

/-! ### Functional units -/

/-- The evaluation of one unit in a tick: the last stage executes if it is busy, then the unit's first stage is empty and every other
operation is one stage further and not stalled, so the stall case is never taken; the other units' stages are as before, and
with an idle last stage nothing else changes (R196, R197, R198). -/
def Obligations.UnitsShiftEveryTick : Prop :=
  ∀ (s : State) (c : UnitClass),
    let shifted := none :: (unitStages c s).dropLast.map (Option.map fun op => { op with stalled := false })
    ((unitStages c s).getLast? = some none → evalUnit c s = .next (setUnit c shifted s)) ∧
    (∀ (op : UnitLatch) (u : State), (unitStages c s).getLast? = some (some op) → lastStage c op s = .next u →
      evalUnit c s = .next (setUnit c shifted u) ∧
      unitStages c (setUnit c shifted u) = shifted ∧
      ∀ c', c' ≠ c → unitStages c' (setUnit c shifted u) = unitStages c' s)

/-- The last stage of the integer and multiply units: the result of the opcode on the operands is broadcast and the ROB entry
completes; HALT only completes (R199, R200, R201, R221 to R226, R240). -/
def Obligations.AluLastStage : Prop :=
  ∀ (s : State) (op : UnitLatch) (p : Nat) (e : RobEntry) (a b v : Word), robAt s op.rob = some e →
    (prfReady s p = some false → op.pd = some p →
      (op.vals = [a, b] ∧ ((op.opcode = .add ∧ v = a + b) ∨ (op.opcode = .sub ∧ v = a - b) ∨ (op.opcode = .and ∧ v = a &&& b) ∨
          (op.opcode = .or ∧ v = a ||| b) ∨ (op.opcode = .xor ∧ v = a ^^^ b) ∨ (op.opcode = .mul ∧ v = a * b))) ∨
        (op.opcode = .movc ∧ v = op.imm) →
      aluLast op s = .next { s with
        prf := s.prf.set p ⟨v, true⟩
        iq := s.iq.map (Option.map (IqEntry.wake p))
        rob := s.rob.set op.rob (some { e with complete := true }) }) ∧
    (op.opcode = .halt →
      aluLast op s = .next { s with rob := s.rob.set op.rob (some { e with complete := true }) })

/-- The branch unit: outcome, target and misprediction go into the ROB entry, which completes; nothing else changes. With no
source the zero condition is false (R253). -/
def Obligations.BranchUnitResolves : Prop :=
  ∀ (s : State) (op : UnitLatch) (e : RobEntry), robAt s op.rob = some e →
    let resolve := fun (taken : Bool) (target : Word) =>
      Host.Outcome.next { s with rob := s.rob.set op.rob (some { e with
        actTaken := taken, actTarget := target, complete := true,
        mispredicted := mispredict { e with actTaken := taken, actTarget := target } }) }
    (op.opcode = .bz → op.vals = [] → branchLast op s = resolve false (e.pc + op.imm)) ∧
    (op.opcode = .bnz → op.vals = [] → branchLast op s = resolve true (e.pc + op.imm)) ∧
    (∀ v, op.opcode = .bz → op.vals = [v] → branchLast op s = resolve (decide (v = 0)) (e.pc + op.imm)) ∧
    (∀ v, op.opcode = .bnz → op.vals = [v] → branchLast op s = resolve (decide (v ≠ 0)) (e.pc + op.imm)) ∧
    (∀ v, op.opcode = .jump → op.vals = [v] → branchLast op s = resolve true (v + op.imm))

/-- The misprediction predicate (R254). -/
def Obligations.MispredictIff : Prop :=
  ∀ e : RobEntry, mispredict e = true ↔
    e.predTaken ≠ e.actTaken ∨ (e.actTaken = true ∧ e.predTaken = true ∧ e.predTarget ≠ e.actTarget)

/-- The memory unit: address of each opcode, the LSQ entry's new contents, completion of a store, and the record of an
address out of range (R284, R290). An operand that the latch does not hold reads as 0, the model's choice, log 6; under the
invariant every operand read is held. -/
def Obligations.MemoryUnitRecords : Prop :=
  ∀ (s : State) (op : UnitLatch) (l : Nat) (q : LsqEntry) (e : RobEntry) (a : Word),
    op.lsq = some l → lsqAt s l = some q → robAt s op.rob = some e →
    ((op.opcode = .load ∧ a = op.val 1 + op.imm) ∨ (op.opcode = .ldr ∧ a = op.val 1 + op.val 2) ∨
      (op.opcode = .store ∧ a = op.val 2 + op.imm) ∨ (op.opcode = .str ∧ a = op.val 2 + op.val 3)) →
    (a.toNat < s.cfg.dataMemSize → q.isStore = false →
      memLast op s = .next { s with lsq := s.lsq.set l (some { q with addr := a, addrValid := true }) }) ∧
    (a.toNat < s.cfg.dataMemSize → q.isStore = true →
      memLast op s = .next { s with
        lsq := s.lsq.set l (some { q with addr := a, addrValid := true, value := op.val 1, done := true })
        rob := s.rob.set op.rob (some { e with complete := true }) }) ∧
    (s.cfg.dataMemSize ≤ a.toNat →
      memLast op s = .next { s with
        lsq := s.lsq.set l (some
          { q with addr := a, addrValid := true, value := if q.isStore then op.val 1 else q.value, done := true })
        rob := s.rob.set op.rob (some { e with fault := true, faultAddr := a, complete := true }) })

/-! ### Load-store queue -/

/-- The load that is performed is the oldest one whose address is known, that is not done, and before which every store has a
known and different address; none is performed exactly if there is none. The access reads the data memory, broadcasts the
word, marks the LSQ entry done and completes the instruction; without an eligible load it does nothing (R286, R287). -/
def Obligations.LoadAccessDelivers : Prop :=
  ∀ s : State,
    let q := lsqInOrder s
    let eligibleAt := fun (k : Nat) => ∃ x, q[k]? = some x ∧ x.2.isStore = false ∧ x.2.addrValid = true ∧ x.2.done = false ∧
      ∀ j < k, ∀ o, q[j]? = some o → o.2.isStore = true → o.2.addrValid = true ∧ o.2.addr ≠ x.2.addr
    ((∀ k, ¬ eligibleAt k) → lsqLoadAccess s = .next s) ∧
    (∀ (k l : Nat) (x : LsqEntry) (p : Nat) (e : RobEntry), eligibleAt k → (∀ j < k, ¬ eligibleAt j) → q[k]? = some (l, x) →
      x.pd = some p → x.addr.toNat < s.cfg.dataMemSize → prfReady s p = some false → robAt s x.rob = some e →
      lsqLoadAccess s = .next { s with
        prf := s.prf.set p ⟨s.dmem.read x.addr.toNat, true⟩
        iq := s.iq.map (Option.map (IqEntry.wake p))
        lsq := s.lsq.set l (some { x with done := true })
        rob := s.rob.set x.rob (some { e with complete := true }) })

/-! ### Branch target buffer -/

/-- `btb_lookup(a)` on a buffer in which at most one entry has a tag: a hit gives that entry's direction and target, a miss
predicts not taken (R39, R255). -/
def Obligations.BtbLookupIff : Prop :=
  ∀ (s : State) (a : Word), ((s.btb.filterMap id).map BtbEntry.tag).Nodup →
    (∀ (k : Nat) (e : BtbEntry), s.btb[k]? = some (some e) → e.tag = a → btbLookup s a = (true, e.taken, e.target)) ∧
    ((∀ (k : Nat) (e : BtbEntry), s.btb[k]? = some (some e) → e.tag ≠ a) → btbLookup s a = (false, false, 0))

/-- `btb_update(a, taken, target)`: the matching entry, else the lowest empty slot, else the policy's victim, is trained with the
outcome; every other slot is as before, and only a victim moves the policy's own state. The round-robin victim is the pointer,
which then advances (R256, R257). -/
def Obligations.BtbUpdateTrains : Prop :=
  ∀ (s : State) (a : Word) (taken : Bool) (target : Word),
    s.btb.length = s.cfg.btbSize → s.btbRr < s.cfg.btbSize →
    ∃ (j : Nat) (old : Word) (t : State), btbUpdate a taken target s = t ∧ j < s.cfg.btbSize ∧
      t.btb = s.btb.set j (some { tag := a, taken := taken, target := if taken then target else old }) ∧
      t = { s with btb := t.btb, btbRr := t.btbRr, victimDraws := t.victimDraws } ∧
      btbLookup t a = (true, taken, if taken then target else old) ∧
      ((∃ e, s.btb[j]? = some (some e) ∧ e.tag = a ∧ old = e.target ∧ t.btbRr = s.btbRr ∧ t.victimDraws = s.victimDraws) ∨
        ((∀ e, some e ∈ s.btb → e.tag ≠ a) ∧ old = 0 ∧ s.btb[j]? = some none ∧ (∀ k < j, s.btb[k]? ≠ some none) ∧
          t.btbRr = s.btbRr ∧ t.victimDraws = s.victimDraws) ∨
        ((∀ e, some e ∈ s.btb → e.tag ≠ a) ∧ old = 0 ∧ (∀ x ∈ s.btb, x ≠ none) ∧
          (s.cfg.btbVictim = .roundRobin →
            j = s.btbRr ∧ t.btbRr = (s.btbRr + 1) % s.cfg.btbSize ∧ t.victimDraws = s.victimDraws) ∧
          (s.cfg.btbVictim = .free → t.btbRr = s.btbRr ∧ t.victimDraws = s.victimDraws + 1)))

/-! ### Commit -/

/-- Commit does nothing with an empty ROB or an incomplete head; a fault recorded at a complete head is raised instead of a
retirement and ends the tick: the error is set, `cycle` advances, nothing else changes, and the engine is done (R321, R322,
R360, R387). -/
def Obligations.CommitWaitsOrRaises : Prop :=
  ∀ s : State, (s.robCount = 0 → commit s = .next s) ∧
    (∀ e, s.robCount ≠ 0 → robAt s s.robHead = some e →
      (e.complete = false → commit s = .next s) ∧
      (e.complete = true → e.fault = true → done s = false →
        ∃ t, step s = .next t ∧ t = { s with error := some ⟨e.pc, e.faultAddr⟩, cycle := s.cycle + 1 } ∧ done t = true))

/-- A completed head with a destination retires: the retirement map takes its register, the previous one is free, `Rrd` reads the
value produced and every other register reads as before; it leaves the ROB, a load the LSQ too, and nothing else changes (R323,
R324, R326). -/
def Obligations.CommitRegister : Prop :=
  ∀ (s : State) (e : RobEntry), EngineInv s → s.robCount ≠ 0 → robAt s s.robHead = some e → e.complete = true → e.fault = false →
    hasDest e.opcode = true →
    ∃ t pd prev, commit s = .next t ∧ e.pd = some pd ∧ e.prev = some prev ∧ s.rrat[e.rd]? = some prev ∧
      s.prf[pd]? = some ⟨readReg t e.rd, true⟩ ∧ (∀ i, i ≠ e.rd → readReg t i = readReg s i) ∧
      robAt t s.robHead = none ∧ (usesLsq e.opcode = true → lsqAt t s.lsqHead = none) ∧
      t = { s with
        rrat := s.rrat.set e.rd pd, free := s.free.set prev true, committed := s.committed + 1
        rob := s.rob.set s.robHead none, robHead := (s.robHead + 1) % s.cfg.robSize, robCount := s.robCount - 1
        lsq := if usesLsq e.opcode then s.lsq.set s.lsqHead none else s.lsq
        lsqHead := if usesLsq e.opcode then (s.lsqHead + 1) % s.cfg.lsqSize else s.lsqHead
        lsqCount := s.lsqCount - (if usesLsq e.opcode then 1 else 0) }

/-- A completed store at the head writes its value at its address and leaves both queues; no other word, no register and nothing
else changes (R80, R289, R324, R326). -/
def Obligations.CommitStore : Prop :=
  ∀ (s : State) (e : RobEntry), EngineInv s → s.robCount ≠ 0 → robAt s s.robHead = some e → e.complete = true → e.fault = false →
    isStoreOp e.opcode = true →
    ∃ t q, commit s = .next t ∧ lsqAt s s.lsqHead = some q ∧ q.rob = s.robHead ∧ q.addrValid = true ∧
      q.addr.toNat < s.cfg.dataMemSize ∧ t.dmem.read q.addr.toNat = q.value ∧
      (∀ a, a ≠ q.addr.toNat → t.dmem.read a = s.dmem.read a) ∧
      lsqAt t s.lsqHead = none ∧ robAt t s.robHead = none ∧ SameRenaming s t ∧
      t = { s with
        dmem := t.dmem, committed := s.committed + 1
        lsq := s.lsq.set s.lsqHead none, lsqHead := (s.lsqHead + 1) % s.cfg.lsqSize, lsqCount := s.lsqCount - 1
        rob := s.rob.set s.robHead none, robHead := (s.robHead + 1) % s.cfg.robSize, robCount := s.robCount - 1 }

/-- A correctly predicted branch at the head trains the BTB and drops its checkpoint; a HALT sets `halted`; both retire and change
nothing else (R325, R326). -/
def Obligations.CommitBranchAndHalt : Prop :=
  ∀ (s : State) (e : RobEntry), EngineInv s → s.robCount ≠ 0 → robAt s s.robHead = some e → e.complete = true →
    (isBranch e.opcode = true → e.mispredicted = false →
      ∃ t ck, commit s = .next t ∧ SamePrediction (btbUpdate e.pc e.actTaken e.actTarget s) t ∧
        s.bis.head? = some ck ∧ ck.rob = s.robHead ∧ robAt t s.robHead = none ∧ SameRenaming s t ∧
        t = { s with
          btb := t.btb, btbRr := t.btbRr, victimDraws := t.victimDraws, bis := s.bis.tail, committed := s.committed + 1
          rob := s.rob.set s.robHead none, robHead := (s.robHead + 1) % s.cfg.robSize, robCount := s.robCount - 1 }) ∧
    (e.opcode = .halt →
      commit s = .next { s with
        halted := true, committed := s.committed + 1, robCount := s.robCount - 1,
        rob := s.rob.set s.robHead none, robHead := (s.robHead + 1) % s.cfg.robSize })

/-- Flush completeness: when a mispredicted branch commits, nothing in flight survives, the front map and `zsrc` are those of the
branch's checkpoint, which is the retirement map, the free pool is everything that is not committed, and fetch resumes at the
resolved address; the branch retires and trains the BTB, and memory, values, retirement map and status are as before (R325 to
R328, R331, R341). -/
def Obligations.FlushCompleteness : Prop :=
  ∀ (s : State) (e : RobEntry), EngineInv s → s.robCount ≠ 0 → robAt s s.robHead = some e → e.complete = true →
    e.mispredicted = true →
    ∃ t ck, commit s = .next t ∧ s.bis.head? = some ck ∧ ck.rob = s.robHead ∧ NothingInFlight t ∧ t.dr = none ∧
      t.rat = ck.rat ∧ t.zsrc = ck.zsrc ∧ t.rat = t.rrat ∧ t.rrat = s.rrat ∧
      (∀ p < s.cfg.numPhys, t.free[p]? = some (decide (p ∉ t.rrat))) ∧
      t.pc = (if e.actTaken then e.actTarget else e.pc + 4) ∧ t.fetchRecover = true ∧
      t.robTail = t.robHead ∧ t.robHead = (s.robHead + 1) % s.cfg.robSize ∧ t.lsqTail = t.lsqHead ∧
      t.committed = s.committed + 1 ∧ SamePrediction (btbUpdate e.pc e.actTaken e.actTarget s) t ∧
      t = { s with
        pc := t.pc, fetchRecover := t.fetchRecover, dr := t.dr, free := t.free, rat := t.rat, zsrc := t.zsrc, iq := t.iq
        intU := t.intU, mulU := t.mulU, brU := t.brU, memU := t.memU
        rob := t.rob, robHead := t.robHead, robTail := t.robTail, robCount := t.robCount
        lsq := t.lsq, lsqTail := t.lsqTail, lsqCount := t.lsqCount, bis := t.bis
        btb := t.btb, btbRr := t.btbRr, victimDraws := t.victimDraws, committed := t.committed }

/-! ### The tick -/

/-- A step of a done engine changes nothing, not even `cycle` (R369). -/
def Obligations.DoneStepChangesNothing : Prop :=
  ∀ s : State, done s = true → step s = .next s

/-- A step runs the instruction at the pc: with nothing in flight, the tick fetches the instruction the pc names into the empty
latch, moves the pc past it and counts the cycle, and changes nothing else; `EngineRunsNextInstructionAsExec` says what the
following ticks make of it (R150, R360). -/
def Obligations.StepFetchesInstructionAtPc : Prop :=
  ∀ (s : State) (i : Instr), NothingInFlight s → s.fetchRecover = false → s.dr = none → done s = false →
    instrAt s s.pc = some i → i.wellFormed s.cfg.numArch = true →
    step s = .next { s with dr := some (drOf s.pc i), pc := s.pc + 4, lastStall := .none, cycle := s.cycle + 1 }

/-- What every step keeps and how the status fields move: parameters and program never change; an engine that is not done counts
one cycle; at most one instruction commits; `halted` and the error stay (R43, R45, R320, R360, R393). -/
def Obligations.StepStatusFields : Prop :=
  ∀ s t : State, step s = .next t →
    t.cfg = s.cfg ∧ t.prog = s.prog ∧ t.cycle = s.cycle + (if done s then 0 else 1) ∧
    (t.committed = s.committed ∨ t.committed = s.committed + 1) ∧ (s.halted = true → t.halted = true) ∧
    (∀ e, s.error = some e → t.error = some e)

/-- The data memory changes only by the commit of a store at the head, at that store's address and to its value (R80, R324,
R364). -/
def Obligations.MemoryChangesOnlyByCommittedStore : Prop :=
  ∀ (s t : State) (a : Nat), s.dmem.wf = true → step s = .next t → t.dmem.read a ≠ s.dmem.read a →
    ∃ e q, robAt s s.robHead = some e ∧ e.complete = true ∧ e.fault = false ∧ isStoreOp e.opcode = true ∧
      lsqAt s s.lsqHead = some q ∧ q.addr.toNat = a ∧ a < s.cfg.dataMemSize ∧ t.dmem.read a = q.value ∧
      t.committed = s.committed + 1

/-- An architectural register changes only by the commit of an instruction that has it as its destination, and then reads the value
that instruction produced (R27, R48, R323). -/
def Obligations.RegisterChangesOnlyByCommit : Prop :=
  ∀ (s t : State) (i : Nat), EngineInv s → step s = .next t → readReg t i ≠ readReg s i →
    ∃ e pd, robAt s s.robHead = some e ∧ e.complete = true ∧ e.fault = false ∧ hasDest e.opcode = true ∧ e.rd = i ∧
      e.pd = some pd ∧ s.prf[pd]? = some ⟨readReg t i, true⟩ ∧ t.committed = s.committed + 1

/-- Every step keeps the data memory in canonical form and within the address space, from every state (R72; the form is the
model's, log 4). -/
def Obligations.StepKeepsMemoryCanonical : Prop :=
  ∀ s t : State, MemOk s → step s = .next t → MemOk t

/-- Every step keeps the sizes of all tables, queues and units, from every state (R24 to R40). -/
def Obligations.StepKeepsShape : Prop :=
  ∀ s t : State, Shape s → step s = .next t → Shape t

/-- Every step keeps the structural invariant (R47; its further clauses are the model's reading, log 15). -/
def Obligations.StepKeepsInv : Prop :=
  ∀ s t : State, EngineInv s → step s = .next t → EngineInv t

/-- On an engine that satisfies the invariant a step always answers a next state: no precondition of any operation is broken and
nothing is refused (R137, R138, R142, R201, R259, R381, R382, R391). -/
def Obligations.InvNeverStops : Prop :=
  ∀ s : State, EngineInv s → ∃ t, step s = .next t

/-- At most one instruction commits per tick, so never more than ticks (R418). -/
def Obligations.CommittedNeverExceedsCycle : Prop :=
  ∀ s : State, Reachable s → s.committed ≤ s.cycle

/-! ### The engine against the instructions' meanings and the reference interpreter -/

/-- With nothing older in flight, and enough of the cycle budget left if there is one, the engine takes the instruction at the pc from
fetch to retirement in the number of ticks of R416, and then shows exactly the registers, memory and status that the
instruction's meaning gives (R361, R416, R340). A word placed on the reset state where Fetch reads next is such an
instruction (the placing is the model's, log 8), so those ticks run it as the first after reset. -/
def Obligations.EngineRunsNextInstructionAsExec : Prop :=
  (∀ (i : Instr) (s : State), AboutToRun i s →
    ∃ t u, exec i s = .next t ∧ Host.Core.run Sys2Proof.core (soloTicks i s) s = .next u ∧ SameArch u t) ∧
  (∀ (w : Nat) (i : Instr), w < 2 ^ 32 → decode (BitVec.ofNat 32 w) = .ok i →
    AboutToRun i (State.reset.withFetchWord 32 w))

/-- If no other instruction can be fetched meanwhile, the engine and the meaning agree on every field but the tick count, the stall
record and the queues' head and tail positions; if the instruction raises the error, they agree on what is committed, on the
error and on the pc, and the faulting entry alone is left, at the head of the ROB (R340, R347, R361; log 11). -/
def Obligations.LoneInstructionRunsAsExec : Prop :=
  ∀ (i : Instr) (s : State), AboutToRun i s → inRange s (s.pc + 4) = false →
    (isBranch i.opcode = true → ∀ target, btbLookup s s.pc = (true, true, target) → inRange s target = false) →
    ∃ t u, exec i s = .next t ∧ Host.Core.run Sys2Proof.core (soloTicks i s) s = .next u ∧
      (t.error = none → SameMachine u t) ∧
      (t.error ≠ none → SameArch u t ∧ u.pc = t.pc ∧ u.robCount = 1 ∧
        ∃ e, robAt u u.robHead = some e ∧ e.pc = s.pc ∧ e.opcode = i.opcode ∧ e.fault = true)

/-- Program-order commit: after any number of ticks from `initialize`, whatever the BTB holds at the start, the engine shows what the
in-order reference interpreter shows after as many instructions as have committed, raises the same error at the same
instruction, halts where it halts, and drains only where it ends (R220, R340). -/
def Obligations.ProgramOrderCommit : Prop :=
  ∀ (c : Params) (prog : List Instr) (initReg : List Word) (initMem : List (Nat × Word)) (btb : List (Option BtbEntry))
    (rr n : Nat) (s : State),
    c.Legal prog.length → (∀ i ∈ prog, i.wellFormed c.numArch = true) → (∀ x ∈ initMem, x.1 < c.dataMemSize) →
    btb.length = c.btbSize → BtbOk (primed c prog initReg initMem btb rr) →
    Host.Core.run Sys2Proof.core n (primed c prog initReg initMem btb rr) = .next s →
    ∃ r, Ref.after c prog s.committed (Ref.init c initReg (Memory.ofList initMem)) = some r ∧
      registers s = r.x ∧ s.dmem = r.dmem ∧ s.halted = r.halted ∧ r.error = none ∧
      (∀ e, s.error = some e → ∃ r', Ref.step? c prog r = some r' ∧ r'.error = some e) ∧
      (drained s = true → s.halted = false → s.error = none → Ref.step? c prog r = none)

/-- Prediction is invisible: two runs of one program that differ in the BTB's size, content at the start and replacement policy, and in
the cycle budget, show the same registers and memory whenever as many instructions have committed, and if neither has ended
by its budget or is still running, they have ended after the same instruction and for the same reason (R257, R263). -/
def Obligations.PredictionInvisible : Prop :=
  ∀ (c c' : Params) (prog : List Instr) (initReg : List Word) (initMem : List (Nat × Word))
    (btb btb' : List (Option BtbEntry)) (rr rr' n m : Nat) (s t : State),
    c.Legal prog.length → c'.Legal prog.length → (∀ i ∈ prog, i.wellFormed c.numArch = true) →
    (∀ x ∈ initMem, x.1 < c.dataMemSize) →
    c' = { c with btbSize := c'.btbSize, btbVictim := c'.btbVictim, cycleBudget := c'.cycleBudget } →
    btb.length = c.btbSize → BtbOk (primed c prog initReg initMem btb rr) →
    btb'.length = c'.btbSize → BtbOk (primed c' prog initReg initMem btb' rr') →
    Host.Core.run Sys2Proof.core n (primed c prog initReg initMem btb rr) = .next s →
    Host.Core.run Sys2Proof.core m (primed c' prog initReg initMem btb' rr') = .next t →
    (s.committed = t.committed → architecturalState s = architecturalState t) ∧
    (runOutcome s ≠ .budget → runOutcome t ≠ .budget →
      s.committed = t.committed ∧ runOutcome s = runOutcome t ∧ architecturalState s = architecturalState t)
end

