-- ==== Sys2Proof/Laws/Memory.lean ====
section
/-! SUPPORT. The laws of the data memory: a read after a write, and the canonical form (log 4). -/

namespace Sys2Proof.Machine.Memory

/-- Every listed index of a memory is above `a`. -/
def Above (a : Nat) (m : Memory) : Prop := ∀ c ∈ m, a < c.1

theorem wf_cons {a : Nat} {v : Word} {m : Memory} :
    wf ((a, v) :: m) = true ↔ v ≠ unlisted ∧ Above a m ∧ wf m = true := by
  induction m generalizing a v with
  | nil => simp [wf, Above]
  | cons c m ih =>
    obtain ⟨b, w⟩ := c
    simp only [wf, Bool.and_eq_true, bne_iff_ne, decide_eq_true_eq, ih, Above, List.mem_cons, forall_eq_or_imp]
    constructor
    · rintro ⟨⟨hv, hab⟩, hw, hm, hwf⟩
      exact ⟨hv, ⟨hab, fun c hc => lt_trans hab (hm c hc)⟩, hw, hm, hwf⟩
    · rintro ⟨hv, ⟨hab, -⟩, hw, hm, hwf⟩
      exact ⟨⟨hv, hab⟩, hw, hm, hwf⟩

theorem wf_nil : wf [] = true := rfl

/-- An index below every listed one reads as unlisted. -/
theorem read_of_above {a : Nat} {m : Memory} (h : Above a m) : read m a = unlisted := by
  induction m with
  | nil => rfl
  | cons c m ih =>
    obtain ⟨b, w⟩ := c
    have hb : a < b := h (b, w) (by simp)
    simp only [read, if_neg (ne_of_gt hb)]
    exact ih fun c hc => h c (by simp [hc])

theorem read_cons_same (a : Nat) (v : Word) {m : Memory} (h : Above a m) : read (cons a v m) a = v := by
  unfold cons
  split
  · next hv => rw [read_of_above h, hv]
  · simp [read]

theorem read_cons_of_ne {a b : Nat} (v : Word) (m : Memory) (h : a ≠ b) : read (cons a v m) b = read m b := by
  unfold cons
  split
  · rfl
  · simp [read, h]

theorem wf_cons_of {a : Nat} {v : Word} {m : Memory} (h : Above a m) (hm : wf m = true) : wf (cons a v m) = true := by
  unfold cons
  split
  · exact hm
  · next hv => exact wf_cons.2 ⟨hv, h, hm⟩

theorem above_cons {a b : Nat} {v : Word} {m : Memory} (hab : a < b) (h : Above a m) : Above a (cons b v m) := by
  unfold cons
  split
  · exact h
  · intro c hc
    rcases List.mem_cons.1 hc with rfl | hc
    · exact hab
    · exact h c hc

theorem above_write {a b : Nat} {v : Word} {m : Memory} (hab : a < b) (h : Above a m) : Above a (write m b v) := by
  induction m with
  | nil => exact above_cons hab h
  | cons c m ih =>
    obtain ⟨d, w⟩ := c
    have hm : Above a m := fun c hc => h c (by simp [hc])
    simp only [write]
    split
    · exact above_cons hab h
    · split
      · exact above_cons hab hm
      · intro c hc
        rcases List.mem_cons.1 hc with rfl | hc
        · exact h _ (by simp)
        · exact ih hm c hc

/-- A write keeps the canonical form. -/
theorem write_wf {m : Memory} (a : Nat) (v : Word) (h : wf m = true) : wf (write m a v) = true := by
  induction m with
  | nil => exact wf_cons_of (fun c hc => absurd hc (by simp)) rfl
  | cons c m ih =>
    obtain ⟨b, w⟩ := c
    obtain ⟨hw, hb, hm⟩ := wf_cons.1 h
    simp only [write]
    split
    · next hlt =>
      refine wf_cons_of (fun c hc => ?_) h
      rcases List.mem_cons.1 hc with rfl | hc
      · exact hlt
      · exact lt_trans hlt (hb c hc)
    · split
      · next heq => exact wf_cons_of (heq ▸ hb) hm
      · next h1 h2 =>
        exact wf_cons.2 ⟨hw, above_write (by omega) hb, ih hm⟩

/-- A read of the written index gives the written word. -/
theorem read_write_same {m : Memory} (a : Nat) (v : Word) (h : wf m = true) : read (write m a v) a = v := by
  induction m with
  | nil => exact read_cons_same a v fun c hc => absurd hc (by simp)
  | cons c m ih =>
    obtain ⟨b, w⟩ := c
    obtain ⟨-, hb, hm⟩ := wf_cons.1 h
    simp only [write]
    split
    · next hlt =>
      refine read_cons_same a v fun c hc => ?_
      rcases List.mem_cons.1 hc with rfl | hc
      · exact hlt
      · exact lt_trans hlt (hb c hc)
    · split
      · next heq => exact read_cons_same a v (heq ▸ hb)
      · next h1 h2 => simpa [read, show b ≠ a by omega] using ih hm

/-- A read of another index is as before the write. -/
theorem read_write_of_ne {m : Memory} {a b : Nat} (v : Word) (h : a ≠ b) : read (write m a v) b = read m b := by
  induction m with
  | nil => exact read_cons_of_ne v [] h
  | cons c m ih =>
    obtain ⟨d, w⟩ := c
    simp only [write]
    split
    · exact read_cons_of_ne v _ h
    · split
      · next heq =>
        rw [read_cons_of_ne v m h]
        simp [read, show d ≠ b by omega]
      · by_cases hd : d = b
        · simp [read, hd]
        · simpa [read, hd] using ih

/-- A list of words makes a memory in canonical form. -/
theorem ofList_wf (l : List (Nat × Word)) : wf (ofList l) = true := by
  induction l with
  | nil => rfl
  | cons c l ih => exact write_wf _ _ ih

/-- A memory made of a list reads the first pair with an index, else the unlisted word (R411, log 18). -/
theorem read_ofList (l : List (Nat × Word)) (a : Nat) :
    read (ofList l) a = ((l.find? fun x => decide (x.1 = a)).map Prod.snd).getD unlisted := by
  induction l with
  | nil => rfl
  | cons c l ih =>
    by_cases h : c.1 = a
    · subst h
      simpa [ofList] using read_write_same _ _ (ofList_wf l)
    · simpa [ofList, h] using (read_write_of_ne _ h).trans ih

/-- A write of an index below `n` keeps every listed index below `n`. -/
theorem write_bound {m : Memory} {a n : Nat} (v : Word) (ha : a < n) (h : ∀ c ∈ m, c.1 < n) :
    ∀ c ∈ write m a v, c.1 < n := by
  have hc : ∀ {b : Nat} {u : Word} {l : Memory}, b < n → (∀ c ∈ l, c.1 < n) → ∀ c ∈ cons b u l, c.1 < n := by
    intro b u l hb hl c hc
    unfold cons at hc
    split at hc
    · exact hl c hc
    · rcases List.mem_cons.1 hc with rfl | hc
      · exact hb
      · exact hl c hc
  induction m with
  | nil => exact hc ha h
  | cons c m ih =>
    obtain ⟨b, w⟩ := c
    have hm : ∀ c ∈ m, c.1 < n := fun c hc => h c (by simp [hc])
    simp only [write]
    split
    · exact hc ha h
    · split
      · exact hc ha hm
      · intro c hc'
        rcases List.mem_cons.1 hc' with rfl | hc'
        · exact h _ (by simp)
        · exact ih hm c hc'

end Sys2Proof.Machine.Memory

namespace Sys2Proof.Machine

/-- The memory after reset is in canonical form. -/
theorem reset_dmem_wf : Memory.wf State.reset.dmem = true := rfl

end Sys2Proof.Machine
end

