-- ==== Sys2Proof/Laws/State.lean ====
section
/-! SUPPORT. One lemma per field per named update of the Engine, true by `rfl`. -/

namespace Sys2Proof.Machine

variable (s : State)

/-! `allocAt` -/
@[simp] theorem allocAt_cfg (p : Nat) : (allocAt p s).cfg = s.cfg := rfl
@[simp] theorem allocAt_prog (p : Nat) : (allocAt p s).prog = s.prog := rfl
@[simp] theorem allocAt_pc (p : Nat) : (allocAt p s).pc = s.pc := rfl
@[simp] theorem allocAt_fetchRecover (p : Nat) : (allocAt p s).fetchRecover = s.fetchRecover := rfl
@[simp] theorem allocAt_dr (p : Nat) : (allocAt p s).dr = s.dr := rfl
@[simp] theorem allocAt_prf (p : Nat) : (allocAt p s).prf = s.prf.modify p PhysReg.invalidate := rfl
@[simp] theorem allocAt_free (p : Nat) : (allocAt p s).free = s.free.set p false := rfl
@[simp] theorem allocAt_rat (p : Nat) : (allocAt p s).rat = s.rat := rfl
@[simp] theorem allocAt_zsrc (p : Nat) : (allocAt p s).zsrc = s.zsrc := rfl
@[simp] theorem allocAt_rrat (p : Nat) : (allocAt p s).rrat = s.rrat := rfl
@[simp] theorem allocAt_iq (p : Nat) : (allocAt p s).iq = s.iq := rfl
@[simp] theorem allocAt_intU (p : Nat) : (allocAt p s).intU = s.intU := rfl
@[simp] theorem allocAt_mulU (p : Nat) : (allocAt p s).mulU = s.mulU := rfl
@[simp] theorem allocAt_brU (p : Nat) : (allocAt p s).brU = s.brU := rfl
@[simp] theorem allocAt_memU (p : Nat) : (allocAt p s).memU = s.memU := rfl
@[simp] theorem allocAt_rob (p : Nat) : (allocAt p s).rob = s.rob := rfl
@[simp] theorem allocAt_robHead (p : Nat) : (allocAt p s).robHead = s.robHead := rfl
@[simp] theorem allocAt_robTail (p : Nat) : (allocAt p s).robTail = s.robTail := rfl
@[simp] theorem allocAt_robCount (p : Nat) : (allocAt p s).robCount = s.robCount := rfl
@[simp] theorem allocAt_lsq (p : Nat) : (allocAt p s).lsq = s.lsq := rfl
@[simp] theorem allocAt_lsqHead (p : Nat) : (allocAt p s).lsqHead = s.lsqHead := rfl
@[simp] theorem allocAt_lsqTail (p : Nat) : (allocAt p s).lsqTail = s.lsqTail := rfl
@[simp] theorem allocAt_lsqCount (p : Nat) : (allocAt p s).lsqCount = s.lsqCount := rfl
@[simp] theorem allocAt_btb (p : Nat) : (allocAt p s).btb = s.btb := rfl
@[simp] theorem allocAt_btbRr (p : Nat) : (allocAt p s).btbRr = s.btbRr := rfl
@[simp] theorem allocAt_victimDraws (p : Nat) : (allocAt p s).victimDraws = s.victimDraws := rfl
@[simp] theorem allocAt_bis (p : Nat) : (allocAt p s).bis = s.bis := rfl
@[simp] theorem allocAt_dmem (p : Nat) : (allocAt p s).dmem = s.dmem := rfl
@[simp] theorem allocAt_cycle (p : Nat) : (allocAt p s).cycle = s.cycle := rfl
@[simp] theorem allocAt_committed (p : Nat) : (allocAt p s).committed = s.committed := rfl
@[simp] theorem allocAt_halted (p : Nat) : (allocAt p s).halted = s.halted := rfl
@[simp] theorem allocAt_error (p : Nat) : (allocAt p s).error = s.error := rfl
@[simp] theorem allocAt_lastStall (p : Nat) : (allocAt p s).lastStall = s.lastStall := rfl

/-! `ratRename` -/
@[simp] theorem ratRename_cfg (rd p : Nat) : (ratRename rd p s).cfg = s.cfg := rfl
@[simp] theorem ratRename_prog (rd p : Nat) : (ratRename rd p s).prog = s.prog := rfl
@[simp] theorem ratRename_pc (rd p : Nat) : (ratRename rd p s).pc = s.pc := rfl
@[simp] theorem ratRename_fetchRecover (rd p : Nat) : (ratRename rd p s).fetchRecover = s.fetchRecover := rfl
@[simp] theorem ratRename_dr (rd p : Nat) : (ratRename rd p s).dr = s.dr := rfl
@[simp] theorem ratRename_prf (rd p : Nat) : (ratRename rd p s).prf = s.prf.modify p PhysReg.invalidate := rfl
@[simp] theorem ratRename_free (rd p : Nat) : (ratRename rd p s).free = s.free.set p false := rfl
@[simp] theorem ratRename_rat (rd p : Nat) : (ratRename rd p s).rat = s.rat.set rd p := rfl
@[simp] theorem ratRename_zsrc (rd p : Nat) : (ratRename rd p s).zsrc = some p := rfl
@[simp] theorem ratRename_rrat (rd p : Nat) : (ratRename rd p s).rrat = s.rrat := rfl
@[simp] theorem ratRename_iq (rd p : Nat) : (ratRename rd p s).iq = s.iq := rfl
@[simp] theorem ratRename_intU (rd p : Nat) : (ratRename rd p s).intU = s.intU := rfl
@[simp] theorem ratRename_mulU (rd p : Nat) : (ratRename rd p s).mulU = s.mulU := rfl
@[simp] theorem ratRename_brU (rd p : Nat) : (ratRename rd p s).brU = s.brU := rfl
@[simp] theorem ratRename_memU (rd p : Nat) : (ratRename rd p s).memU = s.memU := rfl
@[simp] theorem ratRename_rob (rd p : Nat) : (ratRename rd p s).rob = s.rob := rfl
@[simp] theorem ratRename_robHead (rd p : Nat) : (ratRename rd p s).robHead = s.robHead := rfl
@[simp] theorem ratRename_robTail (rd p : Nat) : (ratRename rd p s).robTail = s.robTail := rfl
@[simp] theorem ratRename_robCount (rd p : Nat) : (ratRename rd p s).robCount = s.robCount := rfl
@[simp] theorem ratRename_lsq (rd p : Nat) : (ratRename rd p s).lsq = s.lsq := rfl
@[simp] theorem ratRename_lsqHead (rd p : Nat) : (ratRename rd p s).lsqHead = s.lsqHead := rfl
@[simp] theorem ratRename_lsqTail (rd p : Nat) : (ratRename rd p s).lsqTail = s.lsqTail := rfl
@[simp] theorem ratRename_lsqCount (rd p : Nat) : (ratRename rd p s).lsqCount = s.lsqCount := rfl
@[simp] theorem ratRename_btb (rd p : Nat) : (ratRename rd p s).btb = s.btb := rfl
@[simp] theorem ratRename_btbRr (rd p : Nat) : (ratRename rd p s).btbRr = s.btbRr := rfl
@[simp] theorem ratRename_victimDraws (rd p : Nat) : (ratRename rd p s).victimDraws = s.victimDraws := rfl
@[simp] theorem ratRename_bis (rd p : Nat) : (ratRename rd p s).bis = s.bis := rfl
@[simp] theorem ratRename_dmem (rd p : Nat) : (ratRename rd p s).dmem = s.dmem := rfl
@[simp] theorem ratRename_cycle (rd p : Nat) : (ratRename rd p s).cycle = s.cycle := rfl
@[simp] theorem ratRename_committed (rd p : Nat) : (ratRename rd p s).committed = s.committed := rfl
@[simp] theorem ratRename_halted (rd p : Nat) : (ratRename rd p s).halted = s.halted := rfl
@[simp] theorem ratRename_error (rd p : Nat) : (ratRename rd p s).error = s.error := rfl
@[simp] theorem ratRename_lastStall (rd p : Nat) : (ratRename rd p s).lastStall = s.lastStall := rfl

/-! `ratRestore` -/
@[simp] theorem ratRestore_cfg (ck : Checkpoint) : (ratRestore ck s).cfg = s.cfg := rfl
@[simp] theorem ratRestore_prog (ck : Checkpoint) : (ratRestore ck s).prog = s.prog := rfl
@[simp] theorem ratRestore_pc (ck : Checkpoint) : (ratRestore ck s).pc = s.pc := rfl
@[simp] theorem ratRestore_fetchRecover (ck : Checkpoint) : (ratRestore ck s).fetchRecover = s.fetchRecover := rfl
@[simp] theorem ratRestore_dr (ck : Checkpoint) : (ratRestore ck s).dr = s.dr := rfl
@[simp] theorem ratRestore_prf (ck : Checkpoint) : (ratRestore ck s).prf = s.prf := rfl
@[simp] theorem ratRestore_free (ck : Checkpoint) : (ratRestore ck s).free = s.free := rfl
@[simp] theorem ratRestore_rat (ck : Checkpoint) : (ratRestore ck s).rat = ck.rat := rfl
@[simp] theorem ratRestore_zsrc (ck : Checkpoint) : (ratRestore ck s).zsrc = ck.zsrc := rfl
@[simp] theorem ratRestore_rrat (ck : Checkpoint) : (ratRestore ck s).rrat = s.rrat := rfl
@[simp] theorem ratRestore_iq (ck : Checkpoint) : (ratRestore ck s).iq = s.iq := rfl
@[simp] theorem ratRestore_intU (ck : Checkpoint) : (ratRestore ck s).intU = s.intU := rfl
@[simp] theorem ratRestore_mulU (ck : Checkpoint) : (ratRestore ck s).mulU = s.mulU := rfl
@[simp] theorem ratRestore_brU (ck : Checkpoint) : (ratRestore ck s).brU = s.brU := rfl
@[simp] theorem ratRestore_memU (ck : Checkpoint) : (ratRestore ck s).memU = s.memU := rfl
@[simp] theorem ratRestore_rob (ck : Checkpoint) : (ratRestore ck s).rob = s.rob := rfl
@[simp] theorem ratRestore_robHead (ck : Checkpoint) : (ratRestore ck s).robHead = s.robHead := rfl
@[simp] theorem ratRestore_robTail (ck : Checkpoint) : (ratRestore ck s).robTail = s.robTail := rfl
@[simp] theorem ratRestore_robCount (ck : Checkpoint) : (ratRestore ck s).robCount = s.robCount := rfl
@[simp] theorem ratRestore_lsq (ck : Checkpoint) : (ratRestore ck s).lsq = s.lsq := rfl
@[simp] theorem ratRestore_lsqHead (ck : Checkpoint) : (ratRestore ck s).lsqHead = s.lsqHead := rfl
@[simp] theorem ratRestore_lsqTail (ck : Checkpoint) : (ratRestore ck s).lsqTail = s.lsqTail := rfl
@[simp] theorem ratRestore_lsqCount (ck : Checkpoint) : (ratRestore ck s).lsqCount = s.lsqCount := rfl
@[simp] theorem ratRestore_btb (ck : Checkpoint) : (ratRestore ck s).btb = s.btb := rfl
@[simp] theorem ratRestore_btbRr (ck : Checkpoint) : (ratRestore ck s).btbRr = s.btbRr := rfl
@[simp] theorem ratRestore_victimDraws (ck : Checkpoint) : (ratRestore ck s).victimDraws = s.victimDraws := rfl
@[simp] theorem ratRestore_bis (ck : Checkpoint) : (ratRestore ck s).bis = s.bis := rfl
@[simp] theorem ratRestore_dmem (ck : Checkpoint) : (ratRestore ck s).dmem = s.dmem := rfl
@[simp] theorem ratRestore_cycle (ck : Checkpoint) : (ratRestore ck s).cycle = s.cycle := rfl
@[simp] theorem ratRestore_committed (ck : Checkpoint) : (ratRestore ck s).committed = s.committed := rfl
@[simp] theorem ratRestore_halted (ck : Checkpoint) : (ratRestore ck s).halted = s.halted := rfl
@[simp] theorem ratRestore_error (ck : Checkpoint) : (ratRestore ck s).error = s.error := rfl
@[simp] theorem ratRestore_lastStall (ck : Checkpoint) : (ratRestore ck s).lastStall = s.lastStall := rfl

/-! `raiseAddressOutOfRange` -/
@[simp] theorem raiseAddressOutOfRange_cfg (pc a : Word) : (raiseAddressOutOfRange pc a s).cfg = s.cfg := rfl
@[simp] theorem raiseAddressOutOfRange_prog (pc a : Word) : (raiseAddressOutOfRange pc a s).prog = s.prog := rfl
@[simp] theorem raiseAddressOutOfRange_pc (pc a : Word) : (raiseAddressOutOfRange pc a s).pc = s.pc := rfl
@[simp] theorem raiseAddressOutOfRange_fetchRecover (pc a : Word) : (raiseAddressOutOfRange pc a s).fetchRecover = s.fetchRecover := rfl
@[simp] theorem raiseAddressOutOfRange_dr (pc a : Word) : (raiseAddressOutOfRange pc a s).dr = s.dr := rfl
@[simp] theorem raiseAddressOutOfRange_prf (pc a : Word) : (raiseAddressOutOfRange pc a s).prf = s.prf := rfl
@[simp] theorem raiseAddressOutOfRange_free (pc a : Word) : (raiseAddressOutOfRange pc a s).free = s.free := rfl
@[simp] theorem raiseAddressOutOfRange_rat (pc a : Word) : (raiseAddressOutOfRange pc a s).rat = s.rat := rfl
@[simp] theorem raiseAddressOutOfRange_zsrc (pc a : Word) : (raiseAddressOutOfRange pc a s).zsrc = s.zsrc := rfl
@[simp] theorem raiseAddressOutOfRange_rrat (pc a : Word) : (raiseAddressOutOfRange pc a s).rrat = s.rrat := rfl
@[simp] theorem raiseAddressOutOfRange_iq (pc a : Word) : (raiseAddressOutOfRange pc a s).iq = s.iq := rfl
@[simp] theorem raiseAddressOutOfRange_intU (pc a : Word) : (raiseAddressOutOfRange pc a s).intU = s.intU := rfl
@[simp] theorem raiseAddressOutOfRange_mulU (pc a : Word) : (raiseAddressOutOfRange pc a s).mulU = s.mulU := rfl
@[simp] theorem raiseAddressOutOfRange_brU (pc a : Word) : (raiseAddressOutOfRange pc a s).brU = s.brU := rfl
@[simp] theorem raiseAddressOutOfRange_memU (pc a : Word) : (raiseAddressOutOfRange pc a s).memU = s.memU := rfl
@[simp] theorem raiseAddressOutOfRange_rob (pc a : Word) : (raiseAddressOutOfRange pc a s).rob = s.rob := rfl
@[simp] theorem raiseAddressOutOfRange_robHead (pc a : Word) : (raiseAddressOutOfRange pc a s).robHead = s.robHead := rfl
@[simp] theorem raiseAddressOutOfRange_robTail (pc a : Word) : (raiseAddressOutOfRange pc a s).robTail = s.robTail := rfl
@[simp] theorem raiseAddressOutOfRange_robCount (pc a : Word) : (raiseAddressOutOfRange pc a s).robCount = s.robCount := rfl
@[simp] theorem raiseAddressOutOfRange_lsq (pc a : Word) : (raiseAddressOutOfRange pc a s).lsq = s.lsq := rfl
@[simp] theorem raiseAddressOutOfRange_lsqHead (pc a : Word) : (raiseAddressOutOfRange pc a s).lsqHead = s.lsqHead := rfl
@[simp] theorem raiseAddressOutOfRange_lsqTail (pc a : Word) : (raiseAddressOutOfRange pc a s).lsqTail = s.lsqTail := rfl
@[simp] theorem raiseAddressOutOfRange_lsqCount (pc a : Word) : (raiseAddressOutOfRange pc a s).lsqCount = s.lsqCount := rfl
@[simp] theorem raiseAddressOutOfRange_btb (pc a : Word) : (raiseAddressOutOfRange pc a s).btb = s.btb := rfl
@[simp] theorem raiseAddressOutOfRange_btbRr (pc a : Word) : (raiseAddressOutOfRange pc a s).btbRr = s.btbRr := rfl
@[simp] theorem raiseAddressOutOfRange_victimDraws (pc a : Word) : (raiseAddressOutOfRange pc a s).victimDraws = s.victimDraws := rfl
@[simp] theorem raiseAddressOutOfRange_bis (pc a : Word) : (raiseAddressOutOfRange pc a s).bis = s.bis := rfl
@[simp] theorem raiseAddressOutOfRange_dmem (pc a : Word) : (raiseAddressOutOfRange pc a s).dmem = s.dmem := rfl
@[simp] theorem raiseAddressOutOfRange_cycle (pc a : Word) : (raiseAddressOutOfRange pc a s).cycle = s.cycle := rfl
@[simp] theorem raiseAddressOutOfRange_committed (pc a : Word) : (raiseAddressOutOfRange pc a s).committed = s.committed := rfl
@[simp] theorem raiseAddressOutOfRange_halted (pc a : Word) : (raiseAddressOutOfRange pc a s).halted = s.halted := rfl
@[simp] theorem raiseAddressOutOfRange_error (pc a : Word) : (raiseAddressOutOfRange pc a s).error = some ⟨pc, a⟩ := rfl
@[simp] theorem raiseAddressOutOfRange_lastStall (pc a : Word) : (raiseAddressOutOfRange pc a s).lastStall = s.lastStall := rfl

/-! `retired` -/
@[simp] theorem retired_cfg (npc : Word) : (retired npc s).cfg = s.cfg := rfl
@[simp] theorem retired_prog (npc : Word) : (retired npc s).prog = s.prog := rfl
@[simp] theorem retired_pc (npc : Word) : (retired npc s).pc = npc := rfl
@[simp] theorem retired_fetchRecover (npc : Word) : (retired npc s).fetchRecover = s.fetchRecover := rfl
@[simp] theorem retired_dr (npc : Word) : (retired npc s).dr = s.dr := rfl
@[simp] theorem retired_prf (npc : Word) : (retired npc s).prf = s.prf := rfl
@[simp] theorem retired_free (npc : Word) : (retired npc s).free = s.free := rfl
@[simp] theorem retired_rat (npc : Word) : (retired npc s).rat = s.rat := rfl
@[simp] theorem retired_zsrc (npc : Word) : (retired npc s).zsrc = s.zsrc := rfl
@[simp] theorem retired_rrat (npc : Word) : (retired npc s).rrat = s.rrat := rfl
@[simp] theorem retired_iq (npc : Word) : (retired npc s).iq = s.iq := rfl
@[simp] theorem retired_intU (npc : Word) : (retired npc s).intU = s.intU := rfl
@[simp] theorem retired_mulU (npc : Word) : (retired npc s).mulU = s.mulU := rfl
@[simp] theorem retired_brU (npc : Word) : (retired npc s).brU = s.brU := rfl
@[simp] theorem retired_memU (npc : Word) : (retired npc s).memU = s.memU := rfl
@[simp] theorem retired_rob (npc : Word) : (retired npc s).rob = s.rob := rfl
@[simp] theorem retired_robHead (npc : Word) : (retired npc s).robHead = s.robHead := rfl
@[simp] theorem retired_robTail (npc : Word) : (retired npc s).robTail = s.robTail := rfl
@[simp] theorem retired_robCount (npc : Word) : (retired npc s).robCount = s.robCount := rfl
@[simp] theorem retired_lsq (npc : Word) : (retired npc s).lsq = s.lsq := rfl
@[simp] theorem retired_lsqHead (npc : Word) : (retired npc s).lsqHead = s.lsqHead := rfl
@[simp] theorem retired_lsqTail (npc : Word) : (retired npc s).lsqTail = s.lsqTail := rfl
@[simp] theorem retired_lsqCount (npc : Word) : (retired npc s).lsqCount = s.lsqCount := rfl
@[simp] theorem retired_btb (npc : Word) : (retired npc s).btb = s.btb := rfl
@[simp] theorem retired_btbRr (npc : Word) : (retired npc s).btbRr = s.btbRr := rfl
@[simp] theorem retired_victimDraws (npc : Word) : (retired npc s).victimDraws = s.victimDraws := rfl
@[simp] theorem retired_bis (npc : Word) : (retired npc s).bis = s.bis := rfl
@[simp] theorem retired_dmem (npc : Word) : (retired npc s).dmem = s.dmem := rfl
@[simp] theorem retired_cycle (npc : Word) : (retired npc s).cycle = s.cycle := rfl
@[simp] theorem retired_committed (npc : Word) : (retired npc s).committed = s.committed + 1 := rfl
@[simp] theorem retired_halted (npc : Word) : (retired npc s).halted = s.halted := rfl
@[simp] theorem retired_error (npc : Word) : (retired npc s).error = s.error := rfl
@[simp] theorem retired_lastStall (npc : Word) : (retired npc s).lastStall = s.lastStall := rfl

/-! `stallRegister` -/
@[simp] theorem stallRegister_cfg : (stallRegister s).cfg = s.cfg := rfl
@[simp] theorem stallRegister_prog : (stallRegister s).prog = s.prog := rfl
@[simp] theorem stallRegister_pc : (stallRegister s).pc = s.pc := rfl
@[simp] theorem stallRegister_fetchRecover : (stallRegister s).fetchRecover = s.fetchRecover := rfl
@[simp] theorem stallRegister_dr : (stallRegister s).dr = s.dr := rfl
@[simp] theorem stallRegister_prf : (stallRegister s).prf = s.prf := rfl
@[simp] theorem stallRegister_free : (stallRegister s).free = s.free := rfl
@[simp] theorem stallRegister_rat : (stallRegister s).rat = s.rat := rfl
@[simp] theorem stallRegister_zsrc : (stallRegister s).zsrc = s.zsrc := rfl
@[simp] theorem stallRegister_rrat : (stallRegister s).rrat = s.rrat := rfl
@[simp] theorem stallRegister_iq : (stallRegister s).iq = s.iq := rfl
@[simp] theorem stallRegister_intU : (stallRegister s).intU = s.intU := rfl
@[simp] theorem stallRegister_mulU : (stallRegister s).mulU = s.mulU := rfl
@[simp] theorem stallRegister_brU : (stallRegister s).brU = s.brU := rfl
@[simp] theorem stallRegister_memU : (stallRegister s).memU = s.memU := rfl
@[simp] theorem stallRegister_rob : (stallRegister s).rob = s.rob := rfl
@[simp] theorem stallRegister_robHead : (stallRegister s).robHead = s.robHead := rfl
@[simp] theorem stallRegister_robTail : (stallRegister s).robTail = s.robTail := rfl
@[simp] theorem stallRegister_robCount : (stallRegister s).robCount = s.robCount := rfl
@[simp] theorem stallRegister_lsq : (stallRegister s).lsq = s.lsq := rfl
@[simp] theorem stallRegister_lsqHead : (stallRegister s).lsqHead = s.lsqHead := rfl
@[simp] theorem stallRegister_lsqTail : (stallRegister s).lsqTail = s.lsqTail := rfl
@[simp] theorem stallRegister_lsqCount : (stallRegister s).lsqCount = s.lsqCount := rfl
@[simp] theorem stallRegister_btb : (stallRegister s).btb = s.btb := rfl
@[simp] theorem stallRegister_btbRr : (stallRegister s).btbRr = s.btbRr := rfl
@[simp] theorem stallRegister_victimDraws : (stallRegister s).victimDraws = s.victimDraws := rfl
@[simp] theorem stallRegister_bis : (stallRegister s).bis = s.bis := rfl
@[simp] theorem stallRegister_dmem : (stallRegister s).dmem = s.dmem := rfl
@[simp] theorem stallRegister_cycle : (stallRegister s).cycle = s.cycle := rfl
@[simp] theorem stallRegister_committed : (stallRegister s).committed = s.committed := rfl
@[simp] theorem stallRegister_halted : (stallRegister s).halted = s.halted := rfl
@[simp] theorem stallRegister_error : (stallRegister s).error = s.error := rfl
@[simp] theorem stallRegister_lastStall : (stallRegister s).lastStall = .registerExhausted := rfl

/-! `setHalted` -/
@[simp] theorem setHalted_cfg : (setHalted s).cfg = s.cfg := rfl
@[simp] theorem setHalted_prog : (setHalted s).prog = s.prog := rfl
@[simp] theorem setHalted_pc : (setHalted s).pc = s.pc := rfl
@[simp] theorem setHalted_fetchRecover : (setHalted s).fetchRecover = s.fetchRecover := rfl
@[simp] theorem setHalted_dr : (setHalted s).dr = s.dr := rfl
@[simp] theorem setHalted_prf : (setHalted s).prf = s.prf := rfl
@[simp] theorem setHalted_free : (setHalted s).free = s.free := rfl
@[simp] theorem setHalted_rat : (setHalted s).rat = s.rat := rfl
@[simp] theorem setHalted_zsrc : (setHalted s).zsrc = s.zsrc := rfl
@[simp] theorem setHalted_rrat : (setHalted s).rrat = s.rrat := rfl
@[simp] theorem setHalted_iq : (setHalted s).iq = s.iq := rfl
@[simp] theorem setHalted_intU : (setHalted s).intU = s.intU := rfl
@[simp] theorem setHalted_mulU : (setHalted s).mulU = s.mulU := rfl
@[simp] theorem setHalted_brU : (setHalted s).brU = s.brU := rfl
@[simp] theorem setHalted_memU : (setHalted s).memU = s.memU := rfl
@[simp] theorem setHalted_rob : (setHalted s).rob = s.rob := rfl
@[simp] theorem setHalted_robHead : (setHalted s).robHead = s.robHead := rfl
@[simp] theorem setHalted_robTail : (setHalted s).robTail = s.robTail := rfl
@[simp] theorem setHalted_robCount : (setHalted s).robCount = s.robCount := rfl
@[simp] theorem setHalted_lsq : (setHalted s).lsq = s.lsq := rfl
@[simp] theorem setHalted_lsqHead : (setHalted s).lsqHead = s.lsqHead := rfl
@[simp] theorem setHalted_lsqTail : (setHalted s).lsqTail = s.lsqTail := rfl
@[simp] theorem setHalted_lsqCount : (setHalted s).lsqCount = s.lsqCount := rfl
@[simp] theorem setHalted_btb : (setHalted s).btb = s.btb := rfl
@[simp] theorem setHalted_btbRr : (setHalted s).btbRr = s.btbRr := rfl
@[simp] theorem setHalted_victimDraws : (setHalted s).victimDraws = s.victimDraws := rfl
@[simp] theorem setHalted_bis : (setHalted s).bis = s.bis := rfl
@[simp] theorem setHalted_dmem : (setHalted s).dmem = s.dmem := rfl
@[simp] theorem setHalted_cycle : (setHalted s).cycle = s.cycle := rfl
@[simp] theorem setHalted_committed : (setHalted s).committed = s.committed := rfl
@[simp] theorem setHalted_halted : (setHalted s).halted = true := rfl
@[simp] theorem setHalted_error : (setHalted s).error = s.error := rfl
@[simp] theorem setHalted_lastStall : (setHalted s).lastStall = s.lastStall := rfl

/-! `lsqRelease` -/
@[simp] theorem lsqRelease_cfg : (lsqRelease s).cfg = s.cfg := rfl
@[simp] theorem lsqRelease_prog : (lsqRelease s).prog = s.prog := rfl
@[simp] theorem lsqRelease_pc : (lsqRelease s).pc = s.pc := rfl
@[simp] theorem lsqRelease_fetchRecover : (lsqRelease s).fetchRecover = s.fetchRecover := rfl
@[simp] theorem lsqRelease_dr : (lsqRelease s).dr = s.dr := rfl
@[simp] theorem lsqRelease_prf : (lsqRelease s).prf = s.prf := rfl
@[simp] theorem lsqRelease_free : (lsqRelease s).free = s.free := rfl
@[simp] theorem lsqRelease_rat : (lsqRelease s).rat = s.rat := rfl
@[simp] theorem lsqRelease_zsrc : (lsqRelease s).zsrc = s.zsrc := rfl
@[simp] theorem lsqRelease_rrat : (lsqRelease s).rrat = s.rrat := rfl
@[simp] theorem lsqRelease_iq : (lsqRelease s).iq = s.iq := rfl
@[simp] theorem lsqRelease_intU : (lsqRelease s).intU = s.intU := rfl
@[simp] theorem lsqRelease_mulU : (lsqRelease s).mulU = s.mulU := rfl
@[simp] theorem lsqRelease_brU : (lsqRelease s).brU = s.brU := rfl
@[simp] theorem lsqRelease_memU : (lsqRelease s).memU = s.memU := rfl
@[simp] theorem lsqRelease_rob : (lsqRelease s).rob = s.rob := rfl
@[simp] theorem lsqRelease_robHead : (lsqRelease s).robHead = s.robHead := rfl
@[simp] theorem lsqRelease_robTail : (lsqRelease s).robTail = s.robTail := rfl
@[simp] theorem lsqRelease_robCount : (lsqRelease s).robCount = s.robCount := rfl
@[simp] theorem lsqRelease_lsq : (lsqRelease s).lsq = s.lsq.set s.lsqHead none := rfl
@[simp] theorem lsqRelease_lsqHead : (lsqRelease s).lsqHead = (s.lsqHead + 1) % s.cfg.lsqSize := rfl
@[simp] theorem lsqRelease_lsqTail : (lsqRelease s).lsqTail = s.lsqTail := rfl
@[simp] theorem lsqRelease_lsqCount : (lsqRelease s).lsqCount = s.lsqCount - 1 := rfl
@[simp] theorem lsqRelease_btb : (lsqRelease s).btb = s.btb := rfl
@[simp] theorem lsqRelease_btbRr : (lsqRelease s).btbRr = s.btbRr := rfl
@[simp] theorem lsqRelease_victimDraws : (lsqRelease s).victimDraws = s.victimDraws := rfl
@[simp] theorem lsqRelease_bis : (lsqRelease s).bis = s.bis := rfl
@[simp] theorem lsqRelease_dmem : (lsqRelease s).dmem = s.dmem := rfl
@[simp] theorem lsqRelease_cycle : (lsqRelease s).cycle = s.cycle := rfl
@[simp] theorem lsqRelease_committed : (lsqRelease s).committed = s.committed := rfl
@[simp] theorem lsqRelease_halted : (lsqRelease s).halted = s.halted := rfl
@[simp] theorem lsqRelease_error : (lsqRelease s).error = s.error := rfl
@[simp] theorem lsqRelease_lastStall : (lsqRelease s).lastStall = s.lastStall := rfl

/-! `commitHead` -/
@[simp] theorem commitHead_cfg (e : RobEntry) : (commitHead e s).cfg = s.cfg := rfl
@[simp] theorem commitHead_prog (e : RobEntry) : (commitHead e s).prog = s.prog := rfl
@[simp] theorem commitHead_pc (e : RobEntry) : (commitHead e s).pc = s.pc := rfl
@[simp] theorem commitHead_fetchRecover (e : RobEntry) : (commitHead e s).fetchRecover = s.fetchRecover := rfl
@[simp] theorem commitHead_dr (e : RobEntry) : (commitHead e s).dr = s.dr := rfl
@[simp] theorem commitHead_prf (e : RobEntry) : (commitHead e s).prf = s.prf := rfl
@[simp] theorem commitHead_free (e : RobEntry) : (commitHead e s).free = s.free := rfl
@[simp] theorem commitHead_rat (e : RobEntry) : (commitHead e s).rat = s.rat := rfl
@[simp] theorem commitHead_zsrc (e : RobEntry) : (commitHead e s).zsrc = s.zsrc := rfl
@[simp] theorem commitHead_rrat (e : RobEntry) : (commitHead e s).rrat = s.rrat := rfl
@[simp] theorem commitHead_iq (e : RobEntry) : (commitHead e s).iq = s.iq := rfl
@[simp] theorem commitHead_intU (e : RobEntry) : (commitHead e s).intU = s.intU := rfl
@[simp] theorem commitHead_mulU (e : RobEntry) : (commitHead e s).mulU = s.mulU := rfl
@[simp] theorem commitHead_brU (e : RobEntry) : (commitHead e s).brU = s.brU := rfl
@[simp] theorem commitHead_memU (e : RobEntry) : (commitHead e s).memU = s.memU := rfl
@[simp] theorem commitHead_rob (e : RobEntry) : (commitHead e s).rob = s.rob.set s.robHead none := rfl
@[simp] theorem commitHead_robHead (e : RobEntry) : (commitHead e s).robHead = (s.robHead + 1) % s.cfg.robSize := rfl
@[simp] theorem commitHead_robTail (e : RobEntry) : (commitHead e s).robTail = s.robTail := rfl
@[simp] theorem commitHead_robCount (e : RobEntry) : (commitHead e s).robCount = s.robCount - 1 := rfl
@[simp] theorem commitHead_lsq (e : RobEntry) : (commitHead e s).lsq = s.lsq := rfl
@[simp] theorem commitHead_lsqHead (e : RobEntry) : (commitHead e s).lsqHead = s.lsqHead := rfl
@[simp] theorem commitHead_lsqTail (e : RobEntry) : (commitHead e s).lsqTail = s.lsqTail := rfl
@[simp] theorem commitHead_lsqCount (e : RobEntry) : (commitHead e s).lsqCount = s.lsqCount := rfl
@[simp] theorem commitHead_btb (e : RobEntry) : (commitHead e s).btb = s.btb := rfl
@[simp] theorem commitHead_btbRr (e : RobEntry) : (commitHead e s).btbRr = s.btbRr := rfl
@[simp] theorem commitHead_victimDraws (e : RobEntry) : (commitHead e s).victimDraws = s.victimDraws := rfl
@[simp] theorem commitHead_bis (e : RobEntry) : (commitHead e s).bis = s.bis := rfl
@[simp] theorem commitHead_dmem (e : RobEntry) : (commitHead e s).dmem = s.dmem := rfl
@[simp] theorem commitHead_cycle (e : RobEntry) : (commitHead e s).cycle = s.cycle := rfl
@[simp] theorem commitHead_committed (e : RobEntry) : (commitHead e s).committed = s.committed + 1 := rfl
@[simp] theorem commitHead_halted (e : RobEntry) : (commitHead e s).halted = (s.halted || decide (e.opcode = .halt)) := rfl
@[simp] theorem commitHead_error (e : RobEntry) : (commitHead e s).error = s.error := rfl
@[simp] theorem commitHead_lastStall (e : RobEntry) : (commitHead e s).lastStall = s.lastStall := rfl

/-! `flushState` -/
@[simp] theorem flushState_cfg (ck : Checkpoint) (n : Word) : (flushState ck n s).cfg = s.cfg := rfl
@[simp] theorem flushState_prog (ck : Checkpoint) (n : Word) : (flushState ck n s).prog = s.prog := rfl
@[simp] theorem flushState_pc (ck : Checkpoint) (n : Word) : (flushState ck n s).pc = n := rfl
@[simp] theorem flushState_fetchRecover (ck : Checkpoint) (n : Word) : (flushState ck n s).fetchRecover = true := rfl
@[simp] theorem flushState_dr (ck : Checkpoint) (n : Word) : (flushState ck n s).dr = none := rfl
@[simp] theorem flushState_prf (ck : Checkpoint) (n : Word) : (flushState ck n s).prf = s.prf := rfl
@[simp] theorem flushState_free (ck : Checkpoint) (n : Word) : (flushState ck n s).free = s.free := rfl
@[simp] theorem flushState_rat (ck : Checkpoint) (n : Word) : (flushState ck n s).rat = ck.rat := rfl
@[simp] theorem flushState_zsrc (ck : Checkpoint) (n : Word) : (flushState ck n s).zsrc = ck.zsrc := rfl
@[simp] theorem flushState_rrat (ck : Checkpoint) (n : Word) : (flushState ck n s).rrat = s.rrat := rfl
@[simp] theorem flushState_iq (ck : Checkpoint) (n : Word) : (flushState ck n s).iq = emptied s.iq := rfl
@[simp] theorem flushState_intU (ck : Checkpoint) (n : Word) : (flushState ck n s).intU = emptied s.intU := rfl
@[simp] theorem flushState_mulU (ck : Checkpoint) (n : Word) : (flushState ck n s).mulU = emptied s.mulU := rfl
@[simp] theorem flushState_brU (ck : Checkpoint) (n : Word) : (flushState ck n s).brU = emptied s.brU := rfl
@[simp] theorem flushState_memU (ck : Checkpoint) (n : Word) : (flushState ck n s).memU = emptied s.memU := rfl
@[simp] theorem flushState_rob (ck : Checkpoint) (n : Word) : (flushState ck n s).rob = emptied s.rob := rfl
@[simp] theorem flushState_robHead (ck : Checkpoint) (n : Word) : (flushState ck n s).robHead = s.robHead := rfl
@[simp] theorem flushState_robTail (ck : Checkpoint) (n : Word) : (flushState ck n s).robTail = s.robHead := rfl
@[simp] theorem flushState_robCount (ck : Checkpoint) (n : Word) : (flushState ck n s).robCount = 0 := rfl
@[simp] theorem flushState_lsq (ck : Checkpoint) (n : Word) : (flushState ck n s).lsq = emptied s.lsq := rfl
@[simp] theorem flushState_lsqHead (ck : Checkpoint) (n : Word) : (flushState ck n s).lsqHead = s.lsqHead := rfl
@[simp] theorem flushState_lsqTail (ck : Checkpoint) (n : Word) : (flushState ck n s).lsqTail = s.lsqHead := rfl
@[simp] theorem flushState_lsqCount (ck : Checkpoint) (n : Word) : (flushState ck n s).lsqCount = 0 := rfl
@[simp] theorem flushState_btb (ck : Checkpoint) (n : Word) : (flushState ck n s).btb = s.btb := rfl
@[simp] theorem flushState_btbRr (ck : Checkpoint) (n : Word) : (flushState ck n s).btbRr = s.btbRr := rfl
@[simp] theorem flushState_victimDraws (ck : Checkpoint) (n : Word) : (flushState ck n s).victimDraws = s.victimDraws := rfl
@[simp] theorem flushState_bis (ck : Checkpoint) (n : Word) : (flushState ck n s).bis = [] := rfl
@[simp] theorem flushState_dmem (ck : Checkpoint) (n : Word) : (flushState ck n s).dmem = s.dmem := rfl
@[simp] theorem flushState_cycle (ck : Checkpoint) (n : Word) : (flushState ck n s).cycle = s.cycle := rfl
@[simp] theorem flushState_committed (ck : Checkpoint) (n : Word) : (flushState ck n s).committed = s.committed := rfl
@[simp] theorem flushState_halted (ck : Checkpoint) (n : Word) : (flushState ck n s).halted = s.halted := rfl
@[simp] theorem flushState_error (ck : Checkpoint) (n : Word) : (flushState ck n s).error = s.error := rfl
@[simp] theorem flushState_lastStall (ck : Checkpoint) (n : Word) : (flushState ck n s).lastStall = s.lastStall := rfl

/-! `bisPush` -/
@[simp] theorem bisPush_cfg (ck : Checkpoint) : (bisPush ck s).cfg = s.cfg := rfl
@[simp] theorem bisPush_prog (ck : Checkpoint) : (bisPush ck s).prog = s.prog := rfl
@[simp] theorem bisPush_pc (ck : Checkpoint) : (bisPush ck s).pc = s.pc := rfl
@[simp] theorem bisPush_fetchRecover (ck : Checkpoint) : (bisPush ck s).fetchRecover = s.fetchRecover := rfl
@[simp] theorem bisPush_dr (ck : Checkpoint) : (bisPush ck s).dr = s.dr := rfl
@[simp] theorem bisPush_prf (ck : Checkpoint) : (bisPush ck s).prf = s.prf := rfl
@[simp] theorem bisPush_free (ck : Checkpoint) : (bisPush ck s).free = s.free := rfl
@[simp] theorem bisPush_rat (ck : Checkpoint) : (bisPush ck s).rat = s.rat := rfl
@[simp] theorem bisPush_zsrc (ck : Checkpoint) : (bisPush ck s).zsrc = s.zsrc := rfl
@[simp] theorem bisPush_rrat (ck : Checkpoint) : (bisPush ck s).rrat = s.rrat := rfl
@[simp] theorem bisPush_iq (ck : Checkpoint) : (bisPush ck s).iq = s.iq := rfl
@[simp] theorem bisPush_intU (ck : Checkpoint) : (bisPush ck s).intU = s.intU := rfl
@[simp] theorem bisPush_mulU (ck : Checkpoint) : (bisPush ck s).mulU = s.mulU := rfl
@[simp] theorem bisPush_brU (ck : Checkpoint) : (bisPush ck s).brU = s.brU := rfl
@[simp] theorem bisPush_memU (ck : Checkpoint) : (bisPush ck s).memU = s.memU := rfl
@[simp] theorem bisPush_rob (ck : Checkpoint) : (bisPush ck s).rob = s.rob := rfl
@[simp] theorem bisPush_robHead (ck : Checkpoint) : (bisPush ck s).robHead = s.robHead := rfl
@[simp] theorem bisPush_robTail (ck : Checkpoint) : (bisPush ck s).robTail = s.robTail := rfl
@[simp] theorem bisPush_robCount (ck : Checkpoint) : (bisPush ck s).robCount = s.robCount := rfl
@[simp] theorem bisPush_lsq (ck : Checkpoint) : (bisPush ck s).lsq = s.lsq := rfl
@[simp] theorem bisPush_lsqHead (ck : Checkpoint) : (bisPush ck s).lsqHead = s.lsqHead := rfl
@[simp] theorem bisPush_lsqTail (ck : Checkpoint) : (bisPush ck s).lsqTail = s.lsqTail := rfl
@[simp] theorem bisPush_lsqCount (ck : Checkpoint) : (bisPush ck s).lsqCount = s.lsqCount := rfl
@[simp] theorem bisPush_btb (ck : Checkpoint) : (bisPush ck s).btb = s.btb := rfl
@[simp] theorem bisPush_btbRr (ck : Checkpoint) : (bisPush ck s).btbRr = s.btbRr := rfl
@[simp] theorem bisPush_victimDraws (ck : Checkpoint) : (bisPush ck s).victimDraws = s.victimDraws := rfl
@[simp] theorem bisPush_bis (ck : Checkpoint) : (bisPush ck s).bis = s.bis ++ [ck] := rfl
@[simp] theorem bisPush_dmem (ck : Checkpoint) : (bisPush ck s).dmem = s.dmem := rfl
@[simp] theorem bisPush_cycle (ck : Checkpoint) : (bisPush ck s).cycle = s.cycle := rfl
@[simp] theorem bisPush_committed (ck : Checkpoint) : (bisPush ck s).committed = s.committed := rfl
@[simp] theorem bisPush_halted (ck : Checkpoint) : (bisPush ck s).halted = s.halted := rfl
@[simp] theorem bisPush_error (ck : Checkpoint) : (bisPush ck s).error = s.error := rfl
@[simp] theorem bisPush_lastStall (ck : Checkpoint) : (bisPush ck s).lastStall = s.lastStall := rfl

/-! `bisPop` -/
@[simp] theorem bisPop_cfg : (bisPop s).cfg = s.cfg := rfl
@[simp] theorem bisPop_prog : (bisPop s).prog = s.prog := rfl
@[simp] theorem bisPop_pc : (bisPop s).pc = s.pc := rfl
@[simp] theorem bisPop_fetchRecover : (bisPop s).fetchRecover = s.fetchRecover := rfl
@[simp] theorem bisPop_dr : (bisPop s).dr = s.dr := rfl
@[simp] theorem bisPop_prf : (bisPop s).prf = s.prf := rfl
@[simp] theorem bisPop_free : (bisPop s).free = s.free := rfl
@[simp] theorem bisPop_rat : (bisPop s).rat = s.rat := rfl
@[simp] theorem bisPop_zsrc : (bisPop s).zsrc = s.zsrc := rfl
@[simp] theorem bisPop_rrat : (bisPop s).rrat = s.rrat := rfl
@[simp] theorem bisPop_iq : (bisPop s).iq = s.iq := rfl
@[simp] theorem bisPop_intU : (bisPop s).intU = s.intU := rfl
@[simp] theorem bisPop_mulU : (bisPop s).mulU = s.mulU := rfl
@[simp] theorem bisPop_brU : (bisPop s).brU = s.brU := rfl
@[simp] theorem bisPop_memU : (bisPop s).memU = s.memU := rfl
@[simp] theorem bisPop_rob : (bisPop s).rob = s.rob := rfl
@[simp] theorem bisPop_robHead : (bisPop s).robHead = s.robHead := rfl
@[simp] theorem bisPop_robTail : (bisPop s).robTail = s.robTail := rfl
@[simp] theorem bisPop_robCount : (bisPop s).robCount = s.robCount := rfl
@[simp] theorem bisPop_lsq : (bisPop s).lsq = s.lsq := rfl
@[simp] theorem bisPop_lsqHead : (bisPop s).lsqHead = s.lsqHead := rfl
@[simp] theorem bisPop_lsqTail : (bisPop s).lsqTail = s.lsqTail := rfl
@[simp] theorem bisPop_lsqCount : (bisPop s).lsqCount = s.lsqCount := rfl
@[simp] theorem bisPop_btb : (bisPop s).btb = s.btb := rfl
@[simp] theorem bisPop_btbRr : (bisPop s).btbRr = s.btbRr := rfl
@[simp] theorem bisPop_victimDraws : (bisPop s).victimDraws = s.victimDraws := rfl
@[simp] theorem bisPop_bis : (bisPop s).bis = s.bis.tail := rfl
@[simp] theorem bisPop_dmem : (bisPop s).dmem = s.dmem := rfl
@[simp] theorem bisPop_cycle : (bisPop s).cycle = s.cycle := rfl
@[simp] theorem bisPop_committed : (bisPop s).committed = s.committed := rfl
@[simp] theorem bisPop_halted : (bisPop s).halted = s.halted := rfl
@[simp] theorem bisPop_error : (bisPop s).error = s.error := rfl
@[simp] theorem bisPop_lastStall : (bisPop s).lastStall = s.lastStall := rfl

/-! `bisClear` -/
@[simp] theorem bisClear_cfg : (bisClear s).cfg = s.cfg := rfl
@[simp] theorem bisClear_prog : (bisClear s).prog = s.prog := rfl
@[simp] theorem bisClear_pc : (bisClear s).pc = s.pc := rfl
@[simp] theorem bisClear_fetchRecover : (bisClear s).fetchRecover = s.fetchRecover := rfl
@[simp] theorem bisClear_dr : (bisClear s).dr = s.dr := rfl
@[simp] theorem bisClear_prf : (bisClear s).prf = s.prf := rfl
@[simp] theorem bisClear_free : (bisClear s).free = s.free := rfl
@[simp] theorem bisClear_rat : (bisClear s).rat = s.rat := rfl
@[simp] theorem bisClear_zsrc : (bisClear s).zsrc = s.zsrc := rfl
@[simp] theorem bisClear_rrat : (bisClear s).rrat = s.rrat := rfl
@[simp] theorem bisClear_iq : (bisClear s).iq = s.iq := rfl
@[simp] theorem bisClear_intU : (bisClear s).intU = s.intU := rfl
@[simp] theorem bisClear_mulU : (bisClear s).mulU = s.mulU := rfl
@[simp] theorem bisClear_brU : (bisClear s).brU = s.brU := rfl
@[simp] theorem bisClear_memU : (bisClear s).memU = s.memU := rfl
@[simp] theorem bisClear_rob : (bisClear s).rob = s.rob := rfl
@[simp] theorem bisClear_robHead : (bisClear s).robHead = s.robHead := rfl
@[simp] theorem bisClear_robTail : (bisClear s).robTail = s.robTail := rfl
@[simp] theorem bisClear_robCount : (bisClear s).robCount = s.robCount := rfl
@[simp] theorem bisClear_lsq : (bisClear s).lsq = s.lsq := rfl
@[simp] theorem bisClear_lsqHead : (bisClear s).lsqHead = s.lsqHead := rfl
@[simp] theorem bisClear_lsqTail : (bisClear s).lsqTail = s.lsqTail := rfl
@[simp] theorem bisClear_lsqCount : (bisClear s).lsqCount = s.lsqCount := rfl
@[simp] theorem bisClear_btb : (bisClear s).btb = s.btb := rfl
@[simp] theorem bisClear_btbRr : (bisClear s).btbRr = s.btbRr := rfl
@[simp] theorem bisClear_victimDraws : (bisClear s).victimDraws = s.victimDraws := rfl
@[simp] theorem bisClear_bis : (bisClear s).bis = [] := rfl
@[simp] theorem bisClear_dmem : (bisClear s).dmem = s.dmem := rfl
@[simp] theorem bisClear_cycle : (bisClear s).cycle = s.cycle := rfl
@[simp] theorem bisClear_committed : (bisClear s).committed = s.committed := rfl
@[simp] theorem bisClear_halted : (bisClear s).halted = s.halted := rfl
@[simp] theorem bisClear_error : (bisClear s).error = s.error := rfl
@[simp] theorem bisClear_lastStall : (bisClear s).lastStall = s.lastStall := rfl

/-! `stallDispatch` -/
@[simp] theorem stallDispatch_cfg (r : Stall) (d : DrLatch) : (stallDispatch r d s).cfg = s.cfg := rfl
@[simp] theorem stallDispatch_prog (r : Stall) (d : DrLatch) : (stallDispatch r d s).prog = s.prog := rfl
@[simp] theorem stallDispatch_pc (r : Stall) (d : DrLatch) : (stallDispatch r d s).pc = s.pc := rfl
@[simp] theorem stallDispatch_fetchRecover (r : Stall) (d : DrLatch) : (stallDispatch r d s).fetchRecover = s.fetchRecover := rfl
@[simp] theorem stallDispatch_dr (r : Stall) (d : DrLatch) : (stallDispatch r d s).dr = some { d with stalled := true } := rfl
@[simp] theorem stallDispatch_prf (r : Stall) (d : DrLatch) : (stallDispatch r d s).prf = s.prf := rfl
@[simp] theorem stallDispatch_free (r : Stall) (d : DrLatch) : (stallDispatch r d s).free = s.free := rfl
@[simp] theorem stallDispatch_rat (r : Stall) (d : DrLatch) : (stallDispatch r d s).rat = s.rat := rfl
@[simp] theorem stallDispatch_zsrc (r : Stall) (d : DrLatch) : (stallDispatch r d s).zsrc = s.zsrc := rfl
@[simp] theorem stallDispatch_rrat (r : Stall) (d : DrLatch) : (stallDispatch r d s).rrat = s.rrat := rfl
@[simp] theorem stallDispatch_iq (r : Stall) (d : DrLatch) : (stallDispatch r d s).iq = s.iq := rfl
@[simp] theorem stallDispatch_intU (r : Stall) (d : DrLatch) : (stallDispatch r d s).intU = s.intU := rfl
@[simp] theorem stallDispatch_mulU (r : Stall) (d : DrLatch) : (stallDispatch r d s).mulU = s.mulU := rfl
@[simp] theorem stallDispatch_brU (r : Stall) (d : DrLatch) : (stallDispatch r d s).brU = s.brU := rfl
@[simp] theorem stallDispatch_memU (r : Stall) (d : DrLatch) : (stallDispatch r d s).memU = s.memU := rfl
@[simp] theorem stallDispatch_rob (r : Stall) (d : DrLatch) : (stallDispatch r d s).rob = s.rob := rfl
@[simp] theorem stallDispatch_robHead (r : Stall) (d : DrLatch) : (stallDispatch r d s).robHead = s.robHead := rfl
@[simp] theorem stallDispatch_robTail (r : Stall) (d : DrLatch) : (stallDispatch r d s).robTail = s.robTail := rfl
@[simp] theorem stallDispatch_robCount (r : Stall) (d : DrLatch) : (stallDispatch r d s).robCount = s.robCount := rfl
@[simp] theorem stallDispatch_lsq (r : Stall) (d : DrLatch) : (stallDispatch r d s).lsq = s.lsq := rfl
@[simp] theorem stallDispatch_lsqHead (r : Stall) (d : DrLatch) : (stallDispatch r d s).lsqHead = s.lsqHead := rfl
@[simp] theorem stallDispatch_lsqTail (r : Stall) (d : DrLatch) : (stallDispatch r d s).lsqTail = s.lsqTail := rfl
@[simp] theorem stallDispatch_lsqCount (r : Stall) (d : DrLatch) : (stallDispatch r d s).lsqCount = s.lsqCount := rfl
@[simp] theorem stallDispatch_btb (r : Stall) (d : DrLatch) : (stallDispatch r d s).btb = s.btb := rfl
@[simp] theorem stallDispatch_btbRr (r : Stall) (d : DrLatch) : (stallDispatch r d s).btbRr = s.btbRr := rfl
@[simp] theorem stallDispatch_victimDraws (r : Stall) (d : DrLatch) : (stallDispatch r d s).victimDraws = s.victimDraws := rfl
@[simp] theorem stallDispatch_bis (r : Stall) (d : DrLatch) : (stallDispatch r d s).bis = s.bis := rfl
@[simp] theorem stallDispatch_dmem (r : Stall) (d : DrLatch) : (stallDispatch r d s).dmem = s.dmem := rfl
@[simp] theorem stallDispatch_cycle (r : Stall) (d : DrLatch) : (stallDispatch r d s).cycle = s.cycle := rfl
@[simp] theorem stallDispatch_committed (r : Stall) (d : DrLatch) : (stallDispatch r d s).committed = s.committed := rfl
@[simp] theorem stallDispatch_halted (r : Stall) (d : DrLatch) : (stallDispatch r d s).halted = s.halted := rfl
@[simp] theorem stallDispatch_error (r : Stall) (d : DrLatch) : (stallDispatch r d s).error = s.error := rfl
@[simp] theorem stallDispatch_lastStall (r : Stall) (d : DrLatch) : (stallDispatch r d s).lastStall = r := rfl

/-! `allocRob` -/
@[simp] theorem allocRob_cfg (e : RobEntry) : (allocRob e s).cfg = s.cfg := rfl
@[simp] theorem allocRob_prog (e : RobEntry) : (allocRob e s).prog = s.prog := rfl
@[simp] theorem allocRob_pc (e : RobEntry) : (allocRob e s).pc = s.pc := rfl
@[simp] theorem allocRob_fetchRecover (e : RobEntry) : (allocRob e s).fetchRecover = s.fetchRecover := rfl
@[simp] theorem allocRob_dr (e : RobEntry) : (allocRob e s).dr = s.dr := rfl
@[simp] theorem allocRob_prf (e : RobEntry) : (allocRob e s).prf = s.prf := rfl
@[simp] theorem allocRob_free (e : RobEntry) : (allocRob e s).free = s.free := rfl
@[simp] theorem allocRob_rat (e : RobEntry) : (allocRob e s).rat = s.rat := rfl
@[simp] theorem allocRob_zsrc (e : RobEntry) : (allocRob e s).zsrc = s.zsrc := rfl
@[simp] theorem allocRob_rrat (e : RobEntry) : (allocRob e s).rrat = s.rrat := rfl
@[simp] theorem allocRob_iq (e : RobEntry) : (allocRob e s).iq = s.iq := rfl
@[simp] theorem allocRob_intU (e : RobEntry) : (allocRob e s).intU = s.intU := rfl
@[simp] theorem allocRob_mulU (e : RobEntry) : (allocRob e s).mulU = s.mulU := rfl
@[simp] theorem allocRob_brU (e : RobEntry) : (allocRob e s).brU = s.brU := rfl
@[simp] theorem allocRob_memU (e : RobEntry) : (allocRob e s).memU = s.memU := rfl
@[simp] theorem allocRob_rob (e : RobEntry) : (allocRob e s).rob = s.rob.set s.robTail (some e) := rfl
@[simp] theorem allocRob_robHead (e : RobEntry) : (allocRob e s).robHead = s.robHead := rfl
@[simp] theorem allocRob_robTail (e : RobEntry) : (allocRob e s).robTail = (s.robTail + 1) % s.cfg.robSize := rfl
@[simp] theorem allocRob_robCount (e : RobEntry) : (allocRob e s).robCount = s.robCount + 1 := rfl
@[simp] theorem allocRob_lsq (e : RobEntry) : (allocRob e s).lsq = s.lsq := rfl
@[simp] theorem allocRob_lsqHead (e : RobEntry) : (allocRob e s).lsqHead = s.lsqHead := rfl
@[simp] theorem allocRob_lsqTail (e : RobEntry) : (allocRob e s).lsqTail = s.lsqTail := rfl
@[simp] theorem allocRob_lsqCount (e : RobEntry) : (allocRob e s).lsqCount = s.lsqCount := rfl
@[simp] theorem allocRob_btb (e : RobEntry) : (allocRob e s).btb = s.btb := rfl
@[simp] theorem allocRob_btbRr (e : RobEntry) : (allocRob e s).btbRr = s.btbRr := rfl
@[simp] theorem allocRob_victimDraws (e : RobEntry) : (allocRob e s).victimDraws = s.victimDraws := rfl
@[simp] theorem allocRob_bis (e : RobEntry) : (allocRob e s).bis = s.bis := rfl
@[simp] theorem allocRob_dmem (e : RobEntry) : (allocRob e s).dmem = s.dmem := rfl
@[simp] theorem allocRob_cycle (e : RobEntry) : (allocRob e s).cycle = s.cycle := rfl
@[simp] theorem allocRob_committed (e : RobEntry) : (allocRob e s).committed = s.committed := rfl
@[simp] theorem allocRob_halted (e : RobEntry) : (allocRob e s).halted = s.halted := rfl
@[simp] theorem allocRob_error (e : RobEntry) : (allocRob e s).error = s.error := rfl
@[simp] theorem allocRob_lastStall (e : RobEntry) : (allocRob e s).lastStall = s.lastStall := rfl

/-! `allocIq` -/
@[simp] theorem allocIq_cfg (e : IqEntry) : (allocIq e s).cfg = s.cfg := rfl
@[simp] theorem allocIq_prog (e : IqEntry) : (allocIq e s).prog = s.prog := rfl
@[simp] theorem allocIq_pc (e : IqEntry) : (allocIq e s).pc = s.pc := rfl
@[simp] theorem allocIq_fetchRecover (e : IqEntry) : (allocIq e s).fetchRecover = s.fetchRecover := rfl
@[simp] theorem allocIq_dr (e : IqEntry) : (allocIq e s).dr = s.dr := rfl
@[simp] theorem allocIq_prf (e : IqEntry) : (allocIq e s).prf = s.prf := rfl
@[simp] theorem allocIq_free (e : IqEntry) : (allocIq e s).free = s.free := rfl
@[simp] theorem allocIq_rat (e : IqEntry) : (allocIq e s).rat = s.rat := rfl
@[simp] theorem allocIq_zsrc (e : IqEntry) : (allocIq e s).zsrc = s.zsrc := rfl
@[simp] theorem allocIq_rrat (e : IqEntry) : (allocIq e s).rrat = s.rrat := rfl
@[simp] theorem allocIq_iq (e : IqEntry) : (allocIq e s).iq = insertIq e s.iq := rfl
@[simp] theorem allocIq_intU (e : IqEntry) : (allocIq e s).intU = s.intU := rfl
@[simp] theorem allocIq_mulU (e : IqEntry) : (allocIq e s).mulU = s.mulU := rfl
@[simp] theorem allocIq_brU (e : IqEntry) : (allocIq e s).brU = s.brU := rfl
@[simp] theorem allocIq_memU (e : IqEntry) : (allocIq e s).memU = s.memU := rfl
@[simp] theorem allocIq_rob (e : IqEntry) : (allocIq e s).rob = s.rob := rfl
@[simp] theorem allocIq_robHead (e : IqEntry) : (allocIq e s).robHead = s.robHead := rfl
@[simp] theorem allocIq_robTail (e : IqEntry) : (allocIq e s).robTail = s.robTail := rfl
@[simp] theorem allocIq_robCount (e : IqEntry) : (allocIq e s).robCount = s.robCount := rfl
@[simp] theorem allocIq_lsq (e : IqEntry) : (allocIq e s).lsq = s.lsq := rfl
@[simp] theorem allocIq_lsqHead (e : IqEntry) : (allocIq e s).lsqHead = s.lsqHead := rfl
@[simp] theorem allocIq_lsqTail (e : IqEntry) : (allocIq e s).lsqTail = s.lsqTail := rfl
@[simp] theorem allocIq_lsqCount (e : IqEntry) : (allocIq e s).lsqCount = s.lsqCount := rfl
@[simp] theorem allocIq_btb (e : IqEntry) : (allocIq e s).btb = s.btb := rfl
@[simp] theorem allocIq_btbRr (e : IqEntry) : (allocIq e s).btbRr = s.btbRr := rfl
@[simp] theorem allocIq_victimDraws (e : IqEntry) : (allocIq e s).victimDraws = s.victimDraws := rfl
@[simp] theorem allocIq_bis (e : IqEntry) : (allocIq e s).bis = s.bis := rfl
@[simp] theorem allocIq_dmem (e : IqEntry) : (allocIq e s).dmem = s.dmem := rfl
@[simp] theorem allocIq_cycle (e : IqEntry) : (allocIq e s).cycle = s.cycle := rfl
@[simp] theorem allocIq_committed (e : IqEntry) : (allocIq e s).committed = s.committed := rfl
@[simp] theorem allocIq_halted (e : IqEntry) : (allocIq e s).halted = s.halted := rfl
@[simp] theorem allocIq_error (e : IqEntry) : (allocIq e s).error = s.error := rfl
@[simp] theorem allocIq_lastStall (e : IqEntry) : (allocIq e s).lastStall = s.lastStall := rfl

/-! `clearDr` -/
@[simp] theorem clearDr_cfg : (clearDr s).cfg = s.cfg := rfl
@[simp] theorem clearDr_prog : (clearDr s).prog = s.prog := rfl
@[simp] theorem clearDr_pc : (clearDr s).pc = s.pc := rfl
@[simp] theorem clearDr_fetchRecover : (clearDr s).fetchRecover = s.fetchRecover := rfl
@[simp] theorem clearDr_dr : (clearDr s).dr = none := rfl
@[simp] theorem clearDr_prf : (clearDr s).prf = s.prf := rfl
@[simp] theorem clearDr_free : (clearDr s).free = s.free := rfl
@[simp] theorem clearDr_rat : (clearDr s).rat = s.rat := rfl
@[simp] theorem clearDr_zsrc : (clearDr s).zsrc = s.zsrc := rfl
@[simp] theorem clearDr_rrat : (clearDr s).rrat = s.rrat := rfl
@[simp] theorem clearDr_iq : (clearDr s).iq = s.iq := rfl
@[simp] theorem clearDr_intU : (clearDr s).intU = s.intU := rfl
@[simp] theorem clearDr_mulU : (clearDr s).mulU = s.mulU := rfl
@[simp] theorem clearDr_brU : (clearDr s).brU = s.brU := rfl
@[simp] theorem clearDr_memU : (clearDr s).memU = s.memU := rfl
@[simp] theorem clearDr_rob : (clearDr s).rob = s.rob := rfl
@[simp] theorem clearDr_robHead : (clearDr s).robHead = s.robHead := rfl
@[simp] theorem clearDr_robTail : (clearDr s).robTail = s.robTail := rfl
@[simp] theorem clearDr_robCount : (clearDr s).robCount = s.robCount := rfl
@[simp] theorem clearDr_lsq : (clearDr s).lsq = s.lsq := rfl
@[simp] theorem clearDr_lsqHead : (clearDr s).lsqHead = s.lsqHead := rfl
@[simp] theorem clearDr_lsqTail : (clearDr s).lsqTail = s.lsqTail := rfl
@[simp] theorem clearDr_lsqCount : (clearDr s).lsqCount = s.lsqCount := rfl
@[simp] theorem clearDr_btb : (clearDr s).btb = s.btb := rfl
@[simp] theorem clearDr_btbRr : (clearDr s).btbRr = s.btbRr := rfl
@[simp] theorem clearDr_victimDraws : (clearDr s).victimDraws = s.victimDraws := rfl
@[simp] theorem clearDr_bis : (clearDr s).bis = s.bis := rfl
@[simp] theorem clearDr_dmem : (clearDr s).dmem = s.dmem := rfl
@[simp] theorem clearDr_cycle : (clearDr s).cycle = s.cycle := rfl
@[simp] theorem clearDr_committed : (clearDr s).committed = s.committed := rfl
@[simp] theorem clearDr_halted : (clearDr s).halted = s.halted := rfl
@[simp] theorem clearDr_error : (clearDr s).error = s.error := rfl
@[simp] theorem clearDr_lastStall : (clearDr s).lastStall = .none := rfl

/-! `bumpCycle` -/
@[simp] theorem bumpCycle_cfg : (bumpCycle s).cfg = s.cfg := rfl
@[simp] theorem bumpCycle_prog : (bumpCycle s).prog = s.prog := rfl
@[simp] theorem bumpCycle_pc : (bumpCycle s).pc = s.pc := rfl
@[simp] theorem bumpCycle_fetchRecover : (bumpCycle s).fetchRecover = s.fetchRecover := rfl
@[simp] theorem bumpCycle_dr : (bumpCycle s).dr = s.dr := rfl
@[simp] theorem bumpCycle_prf : (bumpCycle s).prf = s.prf := rfl
@[simp] theorem bumpCycle_free : (bumpCycle s).free = s.free := rfl
@[simp] theorem bumpCycle_rat : (bumpCycle s).rat = s.rat := rfl
@[simp] theorem bumpCycle_zsrc : (bumpCycle s).zsrc = s.zsrc := rfl
@[simp] theorem bumpCycle_rrat : (bumpCycle s).rrat = s.rrat := rfl
@[simp] theorem bumpCycle_iq : (bumpCycle s).iq = s.iq := rfl
@[simp] theorem bumpCycle_intU : (bumpCycle s).intU = s.intU := rfl
@[simp] theorem bumpCycle_mulU : (bumpCycle s).mulU = s.mulU := rfl
@[simp] theorem bumpCycle_brU : (bumpCycle s).brU = s.brU := rfl
@[simp] theorem bumpCycle_memU : (bumpCycle s).memU = s.memU := rfl
@[simp] theorem bumpCycle_rob : (bumpCycle s).rob = s.rob := rfl
@[simp] theorem bumpCycle_robHead : (bumpCycle s).robHead = s.robHead := rfl
@[simp] theorem bumpCycle_robTail : (bumpCycle s).robTail = s.robTail := rfl
@[simp] theorem bumpCycle_robCount : (bumpCycle s).robCount = s.robCount := rfl
@[simp] theorem bumpCycle_lsq : (bumpCycle s).lsq = s.lsq := rfl
@[simp] theorem bumpCycle_lsqHead : (bumpCycle s).lsqHead = s.lsqHead := rfl
@[simp] theorem bumpCycle_lsqTail : (bumpCycle s).lsqTail = s.lsqTail := rfl
@[simp] theorem bumpCycle_lsqCount : (bumpCycle s).lsqCount = s.lsqCount := rfl
@[simp] theorem bumpCycle_btb : (bumpCycle s).btb = s.btb := rfl
@[simp] theorem bumpCycle_btbRr : (bumpCycle s).btbRr = s.btbRr := rfl
@[simp] theorem bumpCycle_victimDraws : (bumpCycle s).victimDraws = s.victimDraws := rfl
@[simp] theorem bumpCycle_bis : (bumpCycle s).bis = s.bis := rfl
@[simp] theorem bumpCycle_dmem : (bumpCycle s).dmem = s.dmem := rfl
@[simp] theorem bumpCycle_cycle : (bumpCycle s).cycle = s.cycle + 1 := rfl
@[simp] theorem bumpCycle_committed : (bumpCycle s).committed = s.committed := rfl
@[simp] theorem bumpCycle_halted : (bumpCycle s).halted = s.halted := rfl
@[simp] theorem bumpCycle_error : (bumpCycle s).error = s.error := rfl
@[simp] theorem bumpCycle_lastStall : (bumpCycle s).lastStall = s.lastStall := rfl

/-! `raisedAt` -/
@[simp] theorem raisedAt_cfg (a : Word) : (raisedAt a s).cfg = s.cfg := rfl
@[simp] theorem raisedAt_prog (a : Word) : (raisedAt a s).prog = s.prog := rfl
@[simp] theorem raisedAt_pc (a : Word) : (raisedAt a s).pc = nextSeq s.pc := rfl
@[simp] theorem raisedAt_fetchRecover (a : Word) : (raisedAt a s).fetchRecover = s.fetchRecover := rfl
@[simp] theorem raisedAt_dr (a : Word) : (raisedAt a s).dr = s.dr := rfl
@[simp] theorem raisedAt_prf (a : Word) : (raisedAt a s).prf = s.prf := rfl
@[simp] theorem raisedAt_free (a : Word) : (raisedAt a s).free = s.free := rfl
@[simp] theorem raisedAt_rat (a : Word) : (raisedAt a s).rat = s.rat := rfl
@[simp] theorem raisedAt_zsrc (a : Word) : (raisedAt a s).zsrc = s.zsrc := rfl
@[simp] theorem raisedAt_rrat (a : Word) : (raisedAt a s).rrat = s.rrat := rfl
@[simp] theorem raisedAt_iq (a : Word) : (raisedAt a s).iq = s.iq := rfl
@[simp] theorem raisedAt_intU (a : Word) : (raisedAt a s).intU = s.intU := rfl
@[simp] theorem raisedAt_mulU (a : Word) : (raisedAt a s).mulU = s.mulU := rfl
@[simp] theorem raisedAt_brU (a : Word) : (raisedAt a s).brU = s.brU := rfl
@[simp] theorem raisedAt_memU (a : Word) : (raisedAt a s).memU = s.memU := rfl
@[simp] theorem raisedAt_rob (a : Word) : (raisedAt a s).rob = s.rob := rfl
@[simp] theorem raisedAt_robHead (a : Word) : (raisedAt a s).robHead = s.robHead := rfl
@[simp] theorem raisedAt_robTail (a : Word) : (raisedAt a s).robTail = s.robTail := rfl
@[simp] theorem raisedAt_robCount (a : Word) : (raisedAt a s).robCount = s.robCount := rfl
@[simp] theorem raisedAt_lsq (a : Word) : (raisedAt a s).lsq = s.lsq := rfl
@[simp] theorem raisedAt_lsqHead (a : Word) : (raisedAt a s).lsqHead = s.lsqHead := rfl
@[simp] theorem raisedAt_lsqTail (a : Word) : (raisedAt a s).lsqTail = s.lsqTail := rfl
@[simp] theorem raisedAt_lsqCount (a : Word) : (raisedAt a s).lsqCount = s.lsqCount := rfl
@[simp] theorem raisedAt_btb (a : Word) : (raisedAt a s).btb = s.btb := rfl
@[simp] theorem raisedAt_btbRr (a : Word) : (raisedAt a s).btbRr = s.btbRr := rfl
@[simp] theorem raisedAt_victimDraws (a : Word) : (raisedAt a s).victimDraws = s.victimDraws := rfl
@[simp] theorem raisedAt_bis (a : Word) : (raisedAt a s).bis = s.bis := rfl
@[simp] theorem raisedAt_dmem (a : Word) : (raisedAt a s).dmem = s.dmem := rfl
@[simp] theorem raisedAt_cycle (a : Word) : (raisedAt a s).cycle = s.cycle := rfl
@[simp] theorem raisedAt_committed (a : Word) : (raisedAt a s).committed = s.committed := rfl
@[simp] theorem raisedAt_halted (a : Word) : (raisedAt a s).halted = s.halted := rfl
@[simp] theorem raisedAt_error (a : Word) : (raisedAt a s).error = some ⟨s.pc, a⟩ := rfl
@[simp] theorem raisedAt_lastStall (a : Word) : (raisedAt a s).lastStall = s.lastStall := rfl

end Sys2Proof.Machine
end

