-- ==== Sys2Proof/Laws/Ops.lean ====
section
/-! SUPPORT. One lemma per shared operation: everything it can do when it answers a next state. -/

namespace Sys2Proof.Machine

/-! ### Sequencing -/

@[simp] theorem seq_next (s : State) (k : State → Out) : seq (.next s) k = k s := rfl
@[simp] theorem seq_fault (f : Fault) (k : State → Out) : seq (.fault f) k = .fault f := rfl
@[simp] theorem seq_refused (r : Refusal) (k : State → Out) : seq (.refused r) k = .refused r := rfl

/-- A sequence answers a next state iff both parts do. -/
theorem seq_eq_next {o : Out} {k : State → Out} {t : State} :
    seq o k = .next t ↔ ∃ s, o = .next s ∧ k s = .next t := by
  cases o <;> simp

/-- A sequence refuses iff its first part does, or its second after it. -/
theorem seq_eq_refused {o : Out} {k : State → Out} {r : Refusal} :
    seq o k = .refused r ↔ o = .refused r ∨ ∃ s, o = .next s ∧ k s = .refused r := by
  cases o <;> simp

/-! ### Free pool -/

/-- What `lowestFree` finds is free, and nothing below it is. -/
theorem lowestFree_eq_some {k : Nat} {l : List Bool} {p : Nat} :
    lowestFree k l = some p ↔ ∃ j, p = k + j ∧ l[j]? = some true ∧ ∀ i < j, l[i]? = some false := by
  induction l generalizing k with
  | nil => simp [lowestFree]
  | cons b l ih =>
    cases b with
    | true =>
      simp only [lowestFree, Option.some.injEq]
      constructor
      · rintro rfl
        exact ⟨0, by simp⟩
      · rintro ⟨j, rfl, -, hlow⟩
        cases j with
        | zero => rfl
        | succ j => simpa using hlow 0 (by omega)
    | false =>
      simp only [lowestFree, ih]
      constructor
      · rintro ⟨j, rfl, hj, hlow⟩
        refine ⟨j + 1, by omega, by simpa using hj, fun i hi => ?_⟩
        cases i with
        | zero => simp
        | succ i => simpa using hlow i (by omega)
      · rintro ⟨j, rfl, hj, hlow⟩
        cases j with
        | zero => simp at hj
        | succ j =>
          exact ⟨j, by omega, by simpa using hj, fun i hi => by simpa using hlow (i + 1) (by omega)⟩

theorem lowestFree_eq_none {k : Nat} {l : List Bool} : lowestFree k l = none ↔ true ∉ l := by
  induction l generalizing k with
  | nil => simp [lowestFree]
  | cons b l ih => cases b <;> simp [lowestFree, ih]

/-- `alloc()` chooses the lowest-numbered free register (R139). -/
theorem pickFree_eq_some {s : State} {p : Nat} :
    pickFree s = some p ↔ s.free[p]? = some true ∧ ∀ i < p, s.free[i]? = some false := by
  simp [pickFree, lowestFree_eq_some]

theorem pickFree_eq_none {s : State} : pickFree s = none ↔ true ∉ s.free := lowestFree_eq_none

/-- Some register is free iff `alloc()` can choose one. -/
theorem pickFree_isSome {s : State} : (pickFree s).isSome = true ↔ ∃ p : Nat, s.free[p]? = some true := by
  rw [← Option.ne_none_iff_isSome, ne_eq, pickFree_eq_none, not_not, List.mem_iff_getElem?]

/-- `free(p)` answers the pool with `p` in it, and only if `p` was not (R138). -/
theorem freeReg_eq_next {p : Nat} {s t : State} :
    freeReg p s = .next t ↔ s.free[p]? = some false ∧ t = { s with free := s.free.set p true } := by
  unfold freeReg
  split <;> simp_all [eq_comm]

/-! ### Memory, result bus, completion -/

/-- `MemWrite` answers the word written, in canonical form, and only at an index that exists (R86). -/
theorem memWrite_eq_next {a v : Word} {s t : State} :
    memWrite a v s = .next t ↔ inData s a = true ∧ t = { s with dmem := s.dmem.write a.toNat v } := by
  unfold memWrite
  cases h : inData s a <;> simp [eq_comm]

/-- `broadcast(p, v)` answers the register with its value and the issue queue woken (R200). -/
theorem broadcast_eq_next {p : Nat} {v : Word} {s t : State} :
    broadcast p v s = .next t ↔ prfReady s p = some false ∧
      t = { s with prf := s.prf.set p ⟨v, true⟩, iq := s.iq.map (Option.map (IqEntry.wake p)) } := by
  unfold broadcast
  split
  · rename_i h
    exact ⟨fun e => ⟨h, (Host.Outcome.next.inj e).symm⟩, fun e => e.2 ▸ rfl⟩
  · rename_i h
    exact ⟨fun e => (nomatch e), fun e => absurd e.1 h⟩

/-- An update of a ROB entry answers the ROB with that entry changed. -/
theorem robUpdate_eq_next {r : Nat} {f : RobEntry → RobEntry} {s t : State} :
    robUpdate r f s = .next t ↔ ∃ e, robAt s r = some e ∧ t = { s with rob := s.rob.set r (some (f e)) } := by
  unfold robUpdate
  cases h : robAt s r with
  | none => simp
  | some e => simp [eq_comm]

theorem robComplete_eq_next {r : Nat} {s t : State} :
    robComplete r s = .next t ↔
      ∃ e, robAt s r = some e ∧ t = { s with rob := s.rob.set r (some e.completed) } :=
  robUpdate_eq_next

/-- `rat_retire(rd, pd, prev)` answers the retirement map with `pd` and the pool with `prev` (R134). -/
theorem ratRetire_eq_next {rd pd prev : Nat} {s t : State} :
    ratRetire rd pd prev s = .next t ↔ rd < s.rrat.length ∧ s.free[prev]? = some false ∧
      t = { s with rrat := s.rrat.set rd pd, free := s.free.set prev true } := by
  unfold ratRetire
  split <;> simp_all [freeReg_eq_next]

/-- Freeing a list of registers changes the pool only. -/
theorem freeRegs_eq_next {ps : List Nat} {s t : State} (h : freeRegs ps s = .next t) :
    t = { s with free := ps.foldl (fun l p => l.set p true) s.free } := by
  induction ps generalizing s with
  | nil => simpa [freeRegs] using h.symm
  | cons p ps ih =>
    obtain ⟨u, hu, ht⟩ := seq_eq_next.1 h
    obtain ⟨-, rfl⟩ := freeReg_eq_next.1 hu
    simpa using ih ht

/-! ### Shared operations of the meanings -/

theorem ifWellFormed_of {i : Instr} {s : State} {k : Out} (h : i.wellFormed s.cfg.numArch = true) :
    ifWellFormed i s k = k := by simp [ifWellFormed, h]

/-- Everything `writeBack` can do when it answers a next state: wait for a free register, or rename, broadcast, retire. -/
theorem writeBack_eq_next {rd : Nat} {v : Word} {s t : State} (h : writeBack rd v s = .next t) :
    (pickFree s = none ∧ t = stallRegister s) ∨
    ∃ p prev, pickFree s = some p ∧ s.rat[rd]? = some prev ∧ rd < s.rrat.length ∧
      (s.free.set p false)[prev]? = some false ∧
      t = { s with
        prf := (s.prf.modify p PhysReg.invalidate).set p ⟨v, true⟩
        free := (s.free.set p false).set prev true
        rat := s.rat.set rd p
        zsrc := some p
        rrat := s.rrat.set rd p
        iq := s.iq.map (Option.map (IqEntry.wake p))
        pc := nextSeq s.pc
        committed := s.committed + 1 } := by
  unfold writeBack at h
  cases hp : pickFree s with
  | none =>
    simp only [hp, Host.Outcome.next.injEq] at h
    exact .inl ⟨rfl, h.symm⟩
  | some p =>
    simp only [hp] at h
    cases hr : s.rat[rd]? with
    | none => simp [hr] at h
    | some prev =>
      simp only [hr] at h
      obtain ⟨a, ha, h⟩ := seq_eq_next.1 h
      obtain ⟨b, hb, h⟩ := seq_eq_next.1 h
      obtain ⟨-, rfl⟩ := broadcast_eq_next.1 ha
      obtain ⟨hlt, hfree, rfl⟩ := ratRetire_eq_next.1 hb
      refine .inr ⟨p, prev, rfl, rfl, by simpa using hlt, by simpa using hfree, ?_⟩
      simpa [retired] using h.symm

/-- `writeBack` completes at an instruction boundary. -/
theorem writeBack_next_of_boundary {rd : Nat} (v : Word) {s : State} (hb : AtBoundary s) (hrd : rd < s.cfg.numArch) :
    ∃ p prev, pickFree s = some p ∧ s.rrat[rd]? = some prev ∧ p ≠ prev ∧
      writeBack rd v s = .next { s with
        prf := (s.prf.modify p PhysReg.invalidate).set p ⟨v, true⟩
        free := (s.free.set p false).set prev true
        rat := s.rat.set rd p
        zsrc := some p
        rrat := s.rrat.set rd p
        iq := s.iq.map (Option.map (IqEntry.wake p))
        pc := nextSeq s.pc
        committed := s.committed + 1 } := by
  obtain ⟨hprf, hfree, hrrat, hrat, -, hown, hpick⟩ := hb
  obtain ⟨p, hp⟩ := Option.isSome_iff_exists.1 hpick
  have hpf := (pickFree_eq_some.1 hp).1
  have hlt : rd < s.rrat.length := hrrat ▸ hrd
  obtain ⟨prev, hprev⟩ : ∃ q, s.rrat[rd]? = some q := ⟨s.rrat[rd], List.getElem?_eq_getElem hlt⟩
  have hprevf := hown prev (List.mem_of_getElem? hprev)
  have hne : p ≠ prev := by
    rintro rfl
    simp [hpf] at hprevf
  have hplen : p < s.prf.length := by
    rw [hprf, ← hfree]
    exact (List.getElem?_eq_some_iff.1 hpf).1
  refine ⟨p, prev, hp, hprev, hne, ?_⟩
  have h1 : prfReady (ratRename rd p s) p = some false := by
    simp [prfReady, List.getElem?_eq_getElem hplen, PhysReg.invalidate]
  have h2 : s.rat[rd]? = some prev := hrat ▸ hprev
  simp only [writeBack, hp, h2]
  refine seq_eq_next.2 ⟨_, broadcast_eq_next.2 ⟨h1, rfl⟩, seq_eq_next.2 ⟨_, ratRetire_eq_next.2 ⟨hlt, ?_, rfl⟩, rfl⟩⟩
  simpa [List.getElem?_set_ne hne] using hprevf

end Sys2Proof.Machine
end

