-- ==== Sys2Proof/Laws/PerInstr.lean ====
section
/-! SUPPORT. Statements made per instruction, one lemma per constructor. -/

namespace Sys2Proof.Laws

/-! ### The tag of every canonical word (R102, R106) -/

/-- The opcode nibble of a packed word is the tag it was packed with. -/
theorem pack_tag (tag rd rs1 rs2 : Nat) (low : BitVec 16) :
    (pack tag rd rs1 rs2 low).extractLsb' 28 4 = BitVec.ofNat 4 tag := by
  ext i hi
  simp only [pack, BitVec.getElem_extractLsb', BitVec.getLsbD_append, show ¬ 28 + i < 16 by omega,
    show ¬ 28 + i - 16 < 4 by omega, show ¬ 28 + i - 16 - 4 < 4 by omega, show ¬ 28 + i - 16 - 4 - 4 < 4 by omega,
    show 28 + i - 16 - 4 - 4 - 4 = i by omega, if_false, BitVec.getLsbD_eq_getElem hi]

/-- The word `encode` makes of an instruction carries the tag of its opcode (R102, R106). -/
def EncodeTag.Statement (i : Instr) : Prop :=
  (encode i).extractLsb' 28 4 = BitVec.ofNat 4 i.opcode.tag

theorem EncodeTag.add (rd rs1 rs2 : Nat) : EncodeTag.Statement (.add rd rs1 rs2) := pack_tag _ _ _ _ _
theorem EncodeTag.sub (rd rs1 rs2 : Nat) : EncodeTag.Statement (.sub rd rs1 rs2) := pack_tag _ _ _ _ _
theorem EncodeTag.and (rd rs1 rs2 : Nat) : EncodeTag.Statement (.and rd rs1 rs2) := pack_tag _ _ _ _ _
theorem EncodeTag.or (rd rs1 rs2 : Nat) : EncodeTag.Statement (.or rd rs1 rs2) := pack_tag _ _ _ _ _
theorem EncodeTag.xor (rd rs1 rs2 : Nat) : EncodeTag.Statement (.xor rd rs1 rs2) := pack_tag _ _ _ _ _
theorem EncodeTag.mul (rd rs1 rs2 : Nat) : EncodeTag.Statement (.mul rd rs1 rs2) := pack_tag _ _ _ _ _
theorem EncodeTag.movc (rd : Nat) (imm : Int) : EncodeTag.Statement (.movc rd imm) := pack_tag _ _ _ _ _
theorem EncodeTag.load (rd rs1 : Nat) (imm : Int) : EncodeTag.Statement (.load rd rs1 imm) := pack_tag _ _ _ _ _
theorem EncodeTag.ldr (rd rs1 rs2 : Nat) : EncodeTag.Statement (.ldr rd rs1 rs2) := pack_tag _ _ _ _ _
theorem EncodeTag.store (rs1 rs2 : Nat) (imm : Int) : EncodeTag.Statement (.store rs1 rs2 imm) := pack_tag _ _ _ _ _
theorem EncodeTag.str (rs1 rs2 rs3 : Nat) : EncodeTag.Statement (.str rs1 rs2 rs3) := pack_tag _ _ _ _ _
theorem EncodeTag.bz (imm : Int) : EncodeTag.Statement (.bz imm) := pack_tag _ _ _ _ _
theorem EncodeTag.bnz (imm : Int) : EncodeTag.Statement (.bnz imm) := pack_tag _ _ _ _ _
theorem EncodeTag.jump (rs1 : Nat) (imm : Int) : EncodeTag.Statement (.jump rs1 imm) := pack_tag _ _ _ _ _
theorem EncodeTag.halt : EncodeTag.Statement (.halt) := pack_tag _ _ _ _ _

/-! ### The record view (R100, R107) -/

/-- The record of an instruction stands for that instruction, and its opcode field is the instruction's tag (R100, R107). -/
def RecordView.Statement (i : Instr) : Prop :=
  i.toRecord.toInstr = .ok i ∧ i.toRecord.opcode = i.opcode.tag

theorem RecordView.add (rd rs1 rs2 : Nat) : RecordView.Statement (.add rd rs1 rs2) := ⟨rfl, rfl⟩
theorem RecordView.sub (rd rs1 rs2 : Nat) : RecordView.Statement (.sub rd rs1 rs2) := ⟨rfl, rfl⟩
theorem RecordView.and (rd rs1 rs2 : Nat) : RecordView.Statement (.and rd rs1 rs2) := ⟨rfl, rfl⟩
theorem RecordView.or (rd rs1 rs2 : Nat) : RecordView.Statement (.or rd rs1 rs2) := ⟨rfl, rfl⟩
theorem RecordView.xor (rd rs1 rs2 : Nat) : RecordView.Statement (.xor rd rs1 rs2) := ⟨rfl, rfl⟩
theorem RecordView.mul (rd rs1 rs2 : Nat) : RecordView.Statement (.mul rd rs1 rs2) := ⟨rfl, rfl⟩
theorem RecordView.movc (rd : Nat) (imm : Int) : RecordView.Statement (.movc rd imm) := ⟨rfl, rfl⟩
theorem RecordView.load (rd rs1 : Nat) (imm : Int) : RecordView.Statement (.load rd rs1 imm) := ⟨rfl, rfl⟩
theorem RecordView.ldr (rd rs1 rs2 : Nat) : RecordView.Statement (.ldr rd rs1 rs2) := ⟨rfl, rfl⟩
theorem RecordView.store (rs1 rs2 : Nat) (imm : Int) : RecordView.Statement (.store rs1 rs2 imm) := ⟨rfl, rfl⟩
theorem RecordView.str (rs1 rs2 rs3 : Nat) : RecordView.Statement (.str rs1 rs2 rs3) := ⟨rfl, rfl⟩
theorem RecordView.bz (imm : Int) : RecordView.Statement (.bz imm) := ⟨rfl, rfl⟩
theorem RecordView.bnz (imm : Int) : RecordView.Statement (.bnz imm) := ⟨rfl, rfl⟩
theorem RecordView.jump (rs1 : Nat) (imm : Int) : RecordView.Statement (.jump rs1 imm) := ⟨rfl, rfl⟩
theorem RecordView.halt : RecordView.Statement (.halt) := ⟨rfl, rfl⟩

end Sys2Proof.Laws
end

