-- ==== Sys2Proof/Laws/Pipeline.lean ====
section
/-! SUPPORT. One lemma per pipeline operation: everything it can do when it answers a next state. -/

namespace Sys2Proof.Machine

/-! ### Loads, stores and branches of the meanings -/

/-- `loadFrom` raises the error, or is `writeBack` of the word read (R280, R281). -/
theorem loadFrom_eq_next {rd : Nat} {a : Word} {s t : State} (h : loadFrom rd a s = .next t) :
    (inData s a = true ∧ writeBack rd (memRead s a) s = .next t) ∨
    (inData s a = false ∧ t = raisedAt a s) := by
  unfold loadFrom at h
  cases hd : inData s a with
  | true => exact .inl ⟨rfl, by simpa [hd] using h⟩
  | false => exact .inr ⟨rfl, by simpa [hd] using h.symm⟩

/-- `storeTo` raises the error, or writes one word and retires (R282, R283). -/
theorem storeTo_eq_next {a v : Word} {s t : State} (h : storeTo a v s = .next t) :
    (inData s a = true ∧ t = { s with
      dmem := s.dmem.write a.toNat v, pc := nextSeq s.pc, committed := s.committed + 1 }) ∨
    (inData s a = false ∧ t = raisedAt a s) := by
  unfold storeTo at h
  cases hd : inData s a with
  | true => exact .inl ⟨rfl, by simpa [hd, memWrite, retired] using h.symm⟩
  | false => exact .inr ⟨rfl, by simpa [hd] using h.symm⟩

/-- Training the BTB writes one slot and touches nothing but the BTB and the policy's own state (R256, R257). -/
theorem btbUpdate_frame (a : Word) (taken : Bool) (target : Word) (s : State) :
    ∃ j old rr n, btbUpdate a taken target s =
      { s with btb := s.btb.set j (some (trainedEntry a taken target old)), btbRr := rr, victimDraws := n } := by
  unfold btbUpdate
  split
  · exact ⟨_, _, s.btbRr, s.victimDraws, rfl⟩
  · split
    · exact ⟨_, _, s.btbRr, s.victimDraws, rfl⟩
    · cases hv : s.cfg.btbVictim <;> simp only [btbVictim, hv]
      · exact ⟨_, _, _, s.victimDraws, rfl⟩
      · exact ⟨_, _, s.btbRr, _, rfl⟩

/-! ### Commit -/

/-- The committed destination: nothing, or the retirement of a mapping (R323). -/
theorem commitDest_eq_next {e : RobEntry} {s t : State} (h : commitDest e s = .next t) :
    (hasDest e.opcode = false ∧ t = s) ∨
    ∃ pd prev, hasDest e.opcode = true ∧ e.pd = some pd ∧ e.prev = some prev ∧ e.rd < s.rrat.length ∧
      s.free[prev]? = some false ∧ t = { s with rrat := s.rrat.set e.rd pd, free := s.free.set prev true } := by
  unfold commitDest at h
  cases hd : hasDest e.opcode with
  | false => exact .inl ⟨rfl, by simpa [hd] using h.symm⟩
  | true =>
    simp only [hd, if_true] at h
    split at h
    · rename_i pd prev hpd hprev
      exact .inr ⟨pd, prev, rfl, hpd, hprev, ratRetire_eq_next.1 h⟩
    · cases h

/-- The memory operation's part: nothing, or the LSQ head leaves, a store's word written first (R289, R324). -/
theorem commitMem_eq_next {e : RobEntry} {s t : State} (h : commitMem e s = .next t) :
    (usesLsq e.opcode = false ∧ t = s) ∨
    ∃ q, usesLsq e.opcode = true ∧ lsqAt s s.lsqHead = some q ∧
      ((isStoreOp e.opcode = false ∧ t = lsqRelease s) ∨
        (isStoreOp e.opcode = true ∧ inData s q.addr = true ∧
          t = lsqRelease { s with dmem := s.dmem.write q.addr.toNat q.value })) := by
  unfold commitMem at h
  cases hu : usesLsq e.opcode with
  | false => exact .inl ⟨rfl, by simpa [hu] using h.symm⟩
  | true =>
    cases hq : lsqAt s s.lsqHead with
    | none => simp [hu, hq] at h
    | some q =>
      refine .inr ⟨q, rfl, rfl, ?_⟩
      cases hs : isStoreOp e.opcode with
      | false => exact .inl ⟨rfl, by simpa [hu, hq, hs] using h.symm⟩
      | true =>
        simp only [hu, hq, hs, if_true] at h
        obtain ⟨u, hw, ht⟩ := seq_eq_next.1 h
        obtain ⟨hi, rfl⟩ := memWrite_eq_next.1 hw
        exact .inr ⟨rfl, hi, by simpa using ht.symm⟩

/-- A flush returns the destinations in flight to the pool and empties the machine (R328). -/
theorem flush_eq_next {ck : Checkpoint} {n : Word} {s t : State} (h : flush ck n s = .next t) :
    t = flushState ck n { s with free := (robDests s.rob).foldl (fun l p => l.set p true) s.free } := by
  obtain ⟨u, hu, ht⟩ := seq_eq_next.1 h
  rw [← freeRegs_eq_next hu]
  simpa using ht.symm

/-- A retirement: destination, memory, then the head leaves, and a mispredicted branch flushes (R323 to R327). -/
theorem retire_eq_next {e : RobEntry} {s t : State} (h : retire e s = .next t) :
    ∃ a b, commitDest e s = .next a ∧ commitMem e a = .next b ∧
      ((isBranch e.opcode = false ∧ t = commitHead e b) ∨
        ∃ ck, isBranch e.opcode = true ∧ bisOldest s.robHead b = some ck ∧
          ((e.mispredicted = false ∧ t = commitHead e (commitBranch e b)) ∨
            (e.mispredicted = true ∧
              flush ck (branchNext e.pc e.actTaken e.actTarget) (commitHead e (commitBranch e b)) = .next t))) := by
  obtain ⟨a, ha, h⟩ := seq_eq_next.1 h
  obtain ⟨b, hb, h⟩ := seq_eq_next.1 h
  refine ⟨a, b, ha, hb, ?_⟩
  cases hbr : isBranch e.opcode with
  | false => exact .inl ⟨rfl, by simpa [hbr] using h.symm⟩
  | true =>
    simp only [hbr, if_true] at h
    cases hck : bisOldest s.robHead b with
    | none => simp [hck] at h
    | some ck =>
      simp only [hck] at h
      refine .inr ⟨ck, rfl, rfl, ?_⟩
      cases hm : e.mispredicted with
      | false => exact .inl ⟨rfl, by simpa [hm] using h.symm⟩
      | true => exact .inr ⟨rfl, by simpa [hm] using h⟩

/-- Commit does nothing, raises the recorded fault, or retires the head (R320 to R322). -/
theorem commit_eq_next {s t : State} (h : commit s = .next t) :
    (t = s ∧ (s.robCount = 0 ∨ ∃ e, robAt s s.robHead = some e ∧ e.complete = false)) ∨
    ∃ e, s.robCount ≠ 0 ∧ robAt s s.robHead = some e ∧ e.complete = true ∧
      ((e.fault = true ∧ t = raiseAddressOutOfRange e.pc e.faultAddr s) ∨ (e.fault = false ∧ retire e s = .next t)) := by
  unfold commit at h
  split at h
  · rename_i h0
    exact .inl ⟨(Host.Outcome.next.inj h).symm, .inl h0⟩
  · rename_i h0
    cases he : robAt s s.robHead with
    | none => simp [he] at h
    | some e =>
      cases hc : e.complete with
      | false => exact .inl ⟨by simpa [he, hc] using h.symm, .inr ⟨e, rfl, hc⟩⟩
      | true =>
        refine .inr ⟨e, h0, rfl, hc, ?_⟩
        cases hf : e.fault with
        | true => exact .inl ⟨rfl, by simpa [he, hc, hf] using h.symm⟩
        | false => exact .inr ⟨rfl, by simpa [he, hc, hf] using h⟩

/-! ### Load-store queue and memory unit -/

/-- The load access does nothing, or performs one load (R287). -/
theorem lsqLoadAccess_eq_next {s t : State} (h : lsqLoadAccess s = .next t) :
    (firstEligible [] (lsqInOrder s) = none ∧ t = s) ∨
    ∃ l q p e, firstEligible [] (lsqInOrder s) = some (l, q) ∧ q.pd = some p ∧ inData s q.addr = true ∧
      prfReady s p = some false ∧ robAt s q.rob = some e ∧
      t = { s with
        prf := s.prf.set p ⟨memRead s q.addr, true⟩
        iq := s.iq.map (Option.map (IqEntry.wake p))
        lsq := s.lsq.set l (some q.finished)
        rob := s.rob.set q.rob (some e.completed) } := by
  unfold lsqLoadAccess at h
  cases hf : firstEligible [] (lsqInOrder s) with
  | none => exact .inl ⟨rfl, by simpa [hf] using h.symm⟩
  | some x =>
    obtain ⟨l, q⟩ := x
    simp only [hf] at h
    cases hp : q.pd with
    | none => simp [hp] at h
    | some p =>
      simp only [hp] at h
      split at h
      · rename_i hi
        obtain ⟨u, hu, h⟩ := seq_eq_next.1 h
        obtain ⟨hr, rfl⟩ := broadcast_eq_next.1 hu
        obtain ⟨e, he, rfl⟩ := robComplete_eq_next.1 h
        exact .inr ⟨l, q, p, e, rfl, hp, hi, hr, he, rfl⟩
      · cases h

/-- The memory unit's last stage: the LSQ entry takes its address; a store completes; an address out of range is recorded
(R284, R290). -/
theorem memRecord_eq_next {op : UnitLatch} {s t : State} (h : memRecord op s = .next t) :
    ∃ l q, op.lsq = some l ∧ lsqAt s l = some q ∧
      ((inData s op.addr = true ∧ q.isStore = false ∧
          t = { s with lsq := s.lsq.set l (some (q.addressed op.addr (op.val 1))) }) ∨
        ∃ e, robAt s op.rob = some e ∧
          ((inData s op.addr = true ∧ q.isStore = true ∧
              t = { s with
                lsq := s.lsq.set l (some (q.addressed op.addr (op.val 1)))
                rob := s.rob.set op.rob (some e.completed) }) ∨
            (inData s op.addr = false ∧
              t = { s with
                lsq := s.lsq.set l (some (q.addressed op.addr (op.val 1)).finished)
                rob := s.rob.set op.rob (some (e.faulted op.addr)) }))) := by
  unfold memRecord at h
  cases hl : op.lsq with
  | none => simp [hl] at h
  | some l =>
    simp only [hl] at h
    cases hq : lsqAt s l with
    | none => simp [hq] at h
    | some q =>
      simp only [hq] at h
      refine ⟨l, q, rfl, hq, ?_⟩
      cases hi : inData s op.addr with
      | true =>
        cases hs : q.isStore with
        | false => exact .inl ⟨rfl, rfl, by simpa [hi, hs] using h.symm⟩
        | true =>
          simp only [hi, hs, if_true] at h
          obtain ⟨e, he, rfl⟩ := robComplete_eq_next.1 h
          exact .inr ⟨e, he, .inl ⟨rfl, rfl, rfl⟩⟩
      | false =>
        simp only [hi, Bool.false_eq_true, if_false] at h
        obtain ⟨e, he, rfl⟩ := robUpdate_eq_next.1 h
        exact .inr ⟨e, he, .inr ⟨rfl, rfl⟩⟩

/-! ### Integer, multiply and branch units -/

/-- The last stage of INT and MUL: a result is broadcast if there is a destination for it, and the entry completes (R199). -/
theorem aluLast_eq_next {op : UnitLatch} {s t : State} (h : aluLast op s = .next t) :
    ∃ e, robAt s op.rob = some e ∧
      ((t = { s with rob := s.rob.set op.rob (some e.completed) } ∧ (aluResult op = none ∨ op.pd = none)) ∨
        ∃ v p, aluResult op = some v ∧ op.pd = some p ∧ prfReady s p = some false ∧
          t = { s with
            prf := s.prf.set p ⟨v, true⟩
            iq := s.iq.map (Option.map (IqEntry.wake p))
            rob := s.rob.set op.rob (some e.completed) }) := by
  unfold aluLast at h
  cases hr : aluResult op with
  | none =>
    simp only [hr] at h
    obtain ⟨e, he, rfl⟩ := robComplete_eq_next.1 h
    exact ⟨e, he, .inl ⟨rfl, .inl rfl⟩⟩
  | some v =>
    simp only [hr] at h
    obtain ⟨u, hu, h⟩ := seq_eq_next.1 h
    obtain ⟨e, he, rfl⟩ := robComplete_eq_next.1 h
    cases hp : op.pd with
    | none =>
      obtain rfl : u = s := by simpa [deliver, hp] using hu.symm
      exact ⟨e, he, .inl ⟨rfl, .inr rfl⟩⟩
    | some p =>
      simp only [deliver, hp] at hu
      obtain ⟨hv, rfl⟩ := broadcast_eq_next.1 hu
      exact ⟨e, he, .inr ⟨v, p, rfl, rfl, hv, rfl⟩⟩

/-- The branch unit's last stage writes the outcome into the entry (R253). -/
theorem branchLast_eq_next {op : UnitLatch} {s t : State} (h : branchLast op s = .next t) :
    ∃ e taken target, robAt s op.rob = some e ∧ branchOutcome op e.pc = some (taken, target) ∧
      t = { s with rob := s.rob.set op.rob (some (e.resolved taken target)) } := by
  unfold branchLast at h
  cases he : robAt s op.rob with
  | none => simp [he] at h
  | some e =>
    simp only [he] at h
    cases ho : branchOutcome op e.pc with
    | none => simp [ho] at h
    | some x =>
      obtain ⟨taken, target⟩ := x
      simp only [ho] at h
      obtain ⟨e', he', rfl⟩ := robUpdate_eq_next.1 h
      obtain rfl : e = e' := by simpa [he] using he'
      exact ⟨e, taken, target, rfl, ho, rfl⟩

/-- The stages keep their number. -/
@[simp] theorem advance_length (l : List (Option UnitLatch)) : (advance l).length = l.length := by
  induction l with
  | nil => rfl
  | cons x l ih =>
    cases l with
    | nil => rfl
    | cons y r =>
      have hr : (advance (y :: r)).length = r.length + 1 := by simpa using ih
      cases x with
      | none => simp [advance, hr]
      | some op =>
        cases ha : advance (y :: r) with
        | nil => simp [ha] at hr
        | cons z w =>
          have hw : w.length = r.length := by simpa [ha] using hr
          cases z <;> simp [advance, ha, hw]

/-- One unit's evaluation: its last stage executes if it is busy, then the unit advances (R196). -/
theorem evalUnit_eq_next {c : UnitClass} {s t : State} (h : evalUnit c s = .next t) :
    (lastOp (unitStages c s) = none ∧ t = setUnit c (advance (unitStages c s)) s) ∨
    ∃ op u, lastOp (unitStages c s) = some op ∧ lastStage c op s = .next u ∧
      t = setUnit c (advance (unitStages c u)) u := by
  unfold evalUnit at h
  cases hl : lastOp (unitStages c s) with
  | none => exact .inl ⟨rfl, by simpa [hl] using h.symm⟩
  | some op =>
    simp only [hl] at h
    obtain ⟨u, hu, h⟩ := seq_eq_next.1 h
    exact .inr ⟨op, u, rfl, hu, by simpa using h.symm⟩

/-! ### Issue -/

/-- Operand reads give the values of valid registers, one per source slot (R137, R183). -/
theorem readOperands_eq_ok {s : State} {ts : List SrcTag} {vs : List Word} :
    readOperands s ts = .ok vs ↔ ts.map (fun t => prfRead s t.p) = vs.map some := by
  induction ts generalizing vs with
  | nil => cases vs <;> simp [readOperands]
  | cons t ts ih =>
    cases hp : prfRead s t.p with
    | none => cases vs <;> simp [readOperands, hp]
    | some v =>
      cases hr : readOperands s ts with
      | error p =>
        cases vs with
        | nil => simp [readOperands, hp, hr]
        | cons w ws =>
          have := (ih (vs := ws)).2
          simp only [readOperands, hp, hr, List.map_cons, List.cons.injEq]
          constructor
          · intro h; cases h
          · rintro ⟨-, h2⟩
            rw [this h2] at hr
            cases hr
      | ok us =>
        have hus := (ih (vs := us)).1 hr
        cases vs with
        | nil => simp [readOperands, hp, hr]
        | cons w ws =>
          simp only [readOperands, hp, hr, List.map_cons, List.cons.injEq, Except.ok.injEq, Option.some.injEq, hus]
          constructor
          · rintro ⟨rfl, rfl⟩
            exact ⟨rfl, rfl⟩
          · rintro ⟨rfl, h2⟩
            exact ⟨rfl, List.map_injective_iff.2 (Option.some_injective _) h2⟩

/-- Issue of one class does nothing, or moves the selected entry with its operands into stage 1 (R182, R183). -/
theorem issueClass_eq_next {c : UnitClass} {s t : State} (h : issueClass c s = .next t) :
    (t = s ∧ (stage1Free c s = false ∨ selectFor c s = none)) ∨
    ∃ q e vs, stage1Free c s = true ∧ selectFor c s = some (q, e) ∧ readOperands s e.src = .ok vs ∧
      t = setUnit c ((unitStages c s).set 0 (some (issueLatch e vs))) { s with iq := s.iq.set q none } := by
  unfold issueClass at h
  cases hf : stage1Free c s with
  | false => exact .inl ⟨by simpa [hf] using h.symm, .inl rfl⟩
  | true =>
    simp only [hf, if_true] at h
    cases hs : selectFor c s with
    | none => exact .inl ⟨by simpa [hs] using h.symm, .inr rfl⟩
    | some x =>
      obtain ⟨q, e⟩ := x
      simp only [hs, issueEntry] at h
      cases hr : readOperands s e.src with
      | error p => simp [hr] at h
      | ok vs => exact .inr ⟨q, e, vs, rfl, rfl, hr, by simpa [hr] using h.symm⟩

/-! ### Front end -/

/-- Dispatch does nothing, stalls, or makes every allocation (R153, R156, R164). -/
theorem dispatch_eq_next {s t : State} (h : dispatch s = .next t) :
    (s.dr = none ∧ t = { s with lastStall := .none }) ∨
    ∃ d, s.dr = some d ∧
      ((stallReason d.opcode s ≠ .none ∧ t = stallDispatch (stallReason d.opcode s) d s) ∨
        ∃ src, stallReason d.opcode s = .none ∧ sourceTags d s = some src ∧ t = dispatchWith d src s) := by
  unfold dispatch at h
  cases hd : s.dr with
  | none => exact .inl ⟨rfl, by simpa [hd] using h.symm⟩
  | some d =>
    simp only [hd] at h
    refine .inr ⟨d, rfl, ?_⟩
    cases hr : stallReason d.opcode s with
    | none =>
      simp only [hr] at h
      cases hs : sourceTags d s with
      | none => simp [hs] at h
      | some src => exact .inr ⟨src, rfl, rfl, by simpa [hs] using h.symm⟩
    | registerExhausted => exact .inl ⟨by simp, by simpa [hr] using h.symm⟩
    | structuralStall => exact .inl ⟨by simp, by simpa [hr] using h.symm⟩

/-- Fetch recovers, idles, or fills the latch (R150). -/
theorem fetch_eq_next {s t : State} (h : fetch s = .next t) :
    (s.fetchRecover = true ∧ t = { s with fetchRecover := false }) ∨
    (s.fetchRecover = false ∧ t = s ∧ (s.dr.isSome = true ∨ instrAt s s.pc = none)) ∨
    ∃ i, s.fetchRecover = false ∧ s.dr = none ∧ instrAt s s.pc = some i ∧ i.wellFormed s.cfg.numArch = true ∧
      t = { s with dr := some (drOf s.pc i), pc := nextSeq s.pc } := by
  unfold fetch at h
  cases hf : s.fetchRecover with
  | true => exact .inl ⟨rfl, by simpa [hf] using h.symm⟩
  | false =>
    refine .inr ?_
    cases hd : s.dr with
    | some d => exact .inl ⟨rfl, by simpa [hf, hd] using h.symm, .inl rfl⟩
    | none =>
      cases hi : instrAt s s.pc with
      | none => exact .inl ⟨rfl, by simpa [hf, hd, hi] using h.symm, .inr rfl⟩
      | some i =>
        cases hw : i.wellFormed s.cfg.numArch with
        | false => simp [hf, hd, hi, hw] at h
        | true => exact .inr ⟨i, rfl, rfl, rfl, hw, by simpa [hf, hd, hi, hw] using h.symm⟩

/-! ### The tick -/

/-- A tick of a done engine is nothing; else commit, and unless it raised the error every other stage, and the count (R360). -/
theorem tick_eq_next {s t : State} (h : tick s = .next t) :
    (done s = true ∧ t = s) ∨
    ∃ a, done s = false ∧ commit s = .next a ∧
      ((a.error.isSome = true ∧ t = bumpCycle a) ∨
        ∃ b c, a.error = none ∧ beforeFetch a = .next b ∧ fetch b = .next c ∧ t = bumpCycle c) := by
  unfold tick at h
  cases hd : done s with
  | true => exact .inl ⟨rfl, by simpa [hd] using h.symm⟩
  | false =>
    simp only [hd, Bool.false_eq_true, if_false] at h
    obtain ⟨a, ha, h⟩ := seq_eq_next.1 h
    refine .inr ⟨a, rfl, ha, ?_⟩
    cases he : a.error with
    | some e => exact .inl ⟨rfl, by simpa [he] using h.symm⟩
    | none =>
      simp only [he, Option.isSome_none, Bool.false_eq_true, if_false] at h
      obtain ⟨b, hb, h⟩ := seq_eq_next.1 h
      obtain ⟨c, hc, h⟩ := seq_eq_next.1 h
      exact .inr ⟨b, c, rfl, hb, hc, by simpa using h.symm⟩

/-- The stages between commit and Fetch, in their order (R360). -/
theorem beforeFetch_eq_next {s t : State} :
    beforeFetch s = .next t ↔ ∃ a b c d e i₁ i₂ i₃ i₄, lsqLoadAccess s = .next a ∧ evalUnit .mem a = .next b ∧
      evalUnit .br b = .next c ∧ evalUnit .mul c = .next d ∧ evalUnit .int d = .next e ∧ issueClass .mem e = .next i₁ ∧
      issueClass .br i₁ = .next i₂ ∧ issueClass .mul i₂ = .next i₃ ∧ issueClass .int i₃ = .next i₄ ∧
      dispatch i₄ = .next t := by
  simp only [beforeFetch, evalUnits, issue, seq_eq_next]
  constructor
  · rintro ⟨a, h1, e, ⟨b, h2, c, h3, d, h4, h5⟩, i₄, ⟨i₁, h6, i₂, h7, i₃, h8, h9⟩, h10⟩
    exact ⟨a, b, c, d, e, i₁, i₂, i₃, i₄, h1, h2, h3, h4, h5, h6, h7, h8, h9, h10⟩
  · rintro ⟨a, b, c, d, e, i₁, i₂, i₃, i₄, h1, h2, h3, h4, h5, h6, h7, h8, h9, h10⟩
    exact ⟨a, h1, e, ⟨b, h2, c, h3, d, h4, h5⟩, i₄, ⟨i₁, h6, i₂, h7, i₃, h8, h9⟩, h10⟩

end Sys2Proof.Machine
end

