-- ==== Sys2Proof/Tests/Slice0.lean ====
section
/-! SUPPORT. The model's own tests: what `WellFormed` refuses, a word per constructor written out from the encoding (R102,
R106), at most two small tests per instruction with results from the spec's examples and corner cases, and one witness per
statement with hypotheses. -/

namespace Sys2Proof.Tests

open Sys2Proof.Machine

/-! ### WellFormed: every check refuses an ill-formed term -/

theorem test_wf_add : [Instr.add 16 0 0, .add 0 16 0, .add 0 0 16].map (Instr.wellFormed 16) = [false, false, false] := by decide
theorem test_wf_sub : [Instr.sub 16 0 0, .sub 0 16 0, .sub 0 0 16].map (Instr.wellFormed 16) = [false, false, false] := by decide
theorem test_wf_and : [Instr.and 16 0 0, .and 0 16 0, .and 0 0 16].map (Instr.wellFormed 16) = [false, false, false] := by decide
theorem test_wf_or : [Instr.or 16 0 0, .or 0 16 0, .or 0 0 16].map (Instr.wellFormed 16) = [false, false, false] := by decide
theorem test_wf_xor : [Instr.xor 16 0 0, .xor 0 16 0, .xor 0 0 16].map (Instr.wellFormed 16) = [false, false, false] := by decide
theorem test_wf_mul : [Instr.mul 16 0 0, .mul 0 16 0, .mul 0 0 16].map (Instr.wellFormed 16) = [false, false, false] := by decide
theorem test_wf_movc :
    [Instr.movc 16 0, .movc 0 32768, .movc 0 (-32769)].map (Instr.wellFormed 16) = [false, false, false] := by decide
theorem test_wf_load : [Instr.load 16 0 0, .load 0 16 0, .load 0 0 32768, .load 0 0 (-32769)].map (Instr.wellFormed 16) =
    [false, false, false, false] := by decide
theorem test_wf_ldr : [Instr.ldr 16 0 0, .ldr 0 16 0, .ldr 0 0 16].map (Instr.wellFormed 16) = [false, false, false] := by decide
theorem test_wf_store : [Instr.store 16 0 0, .store 0 16 0, .store 0 0 32768, .store 0 0 (-32769)].map (Instr.wellFormed 16) =
    [false, false, false, false] := by decide
theorem test_wf_str : [Instr.str 16 0 0, .str 0 16 0, .str 0 0 16].map (Instr.wellFormed 16) = [false, false, false] := by decide
theorem test_wf_bz : [Instr.bz 32768, .bz (-32769)].map (Instr.wellFormed 16) = [false, false] := by decide
theorem test_wf_bnz : [Instr.bnz 32768, .bnz (-32769)].map (Instr.wellFormed 16) = [false, false] := by decide
theorem test_wf_jump :
    [Instr.jump 16 0, .jump 0 32768, .jump 0 (-32769)].map (Instr.wellFormed 16) = [false, false, false] := by decide
theorem test_wf_halt : Instr.halt.wellFormed 0 = true := by decide

/-! ### Decode: words written out field by field from R102 -/

theorem test_decode_add : decode 0b0001_0010_0000_0001_0000000000000000 = .ok (.add 2 0 1) := by decide
theorem test_decode_sub : decode 0b0010_1111_0001_1110_0000000000000000 = .ok (.sub 15 1 14) := by decide
theorem test_decode_and : decode 0b0011_0001_0010_0011_0000000000000000 = .ok (.and 1 2 3) := by decide
theorem test_decode_or : decode 0b0100_0100_0101_0110_0000000000000000 = .ok (.or 4 5 6) := by decide
theorem test_decode_xor : decode 0b0101_0111_1000_1001_0000000000000000 = .ok (.xor 7 8 9) := by decide
/-- Unused bits are ignored (R108). -/
theorem test_decode_mul : decode 0b0110_0011_0001_0010_1111111111111111 = .ok (.mul 3 1 2) := by decide
theorem test_decode_movc : decode 0b0111_0001_0000_0000_1000000000000000 = .ok (.movc 1 (-32768)) := by decide
theorem test_decode_load : decode 0b1000_0011_0010_0000_0111111111111111 = .ok (.load 3 2 32767) := by decide
theorem test_decode_ldr : decode 0b1001_0101_0010_0100_0000000000000000 = .ok (.ldr 5 2 4) := by decide
theorem test_decode_store : decode 0b1010_0000_0010_0011_1111111111111100 = .ok (.store 2 3 (-4)) := by decide
theorem test_decode_str : decode 0b1011_0000_0011_0010_0001_000000000000 = .ok (.str 3 2 1) := by decide
theorem test_decode_bz : decode 0b1100_0000_0000_0000_0000000000001000 = .ok (.bz 8) := by decide
theorem test_decode_bnz : decode 0b1101_0000_0000_0000_1111111111111100 = .ok (.bnz (-4)) := by decide
theorem test_decode_jump : decode 0b1110_0000_0001_0000_0000000000001100 = .ok (.jump 1 12) := by decide
theorem test_decode_halt : decode 0b1111_0000_0000_0000_0000000000000000 = .ok .halt := by decide
/-- The reserved nibble is rejected by name (R109). -/
theorem test_decode_reserved : decode 0x0FFFFFFF = .error (.unknownOpcode 0) := by decide

/-! ### The host's two questions, on one word per row -/

/-- One word of each row of the opcode table. -/
def rowWords : List Nat :=
  [0x12010000, 0x20010000, 0x31230000, 0x44560000, 0x57890000, 0x63120000, 0x70000005, 0x83200004] ++
  [0x95240000, 0xA0200000, 0xB0321000, 0xC0000008, 0xD000FFFC, 0xE010000C, 0xF0000000]

/-- The step of a placed word puts its instruction into the latch between Fetch and Dispatch. -/
def fetchesPlaced (w : Nat) : Bool :=
  match decodeTableWord 32 w, step (State.reset.withFetchWord 32 w) with
  | some i, .next t => decide (t.dr = some (drOf 4000 i))
  | _, _ => false

theorem test_placed_words_are_fetched : rowWords.all fetchesPlaced = true := by decide

/-- The placed word's instruction runs as the first after reset: after the ticks R416 gives it, the engine shows the registers,
memory, committed count, halted and error of the instruction's meaning. -/
def placedRuns (w : Nat) : Bool :=
  let s := State.reset.withFetchWord 32 w
  match decodeTableWord 32 w with
  | none => false
  | some i =>
    match exec i s, Host.Core.run Sys2Proof.core (soloTicks i s) s with
    | .next t, .next u => decide (SameArch u t)
    | _, _ => false

theorem test_placed_register_words_run : (rowWords.take 7).all placedRuns = true := by decide
theorem test_placed_other_words_run : (rowWords.drop 7).all placedRuns = true := by decide

/-! ### One instruction on a small machine -/

/-- Small sizes, so that a test evaluates quickly. -/
def tiny : Params :=
  { numArch := 4, numPhys := 6, iqSize := 2, robSize := 3, lsqSize := 2, btbSize := 2, bisSize := 2, dataMemSize := 8 }

/-- A machine of those sizes with `DMEM[2] = 7` and `DMEM[5] = 1`. -/
def machine (prog : List Instr) (regs : List Word) : State := State.initial tiny prog regs (Memory.ofList [(2, 7), (5, 1)])

/-- The state an outcome answers, or the one given. -/
def stateOf (s : State) (o : Out) : State :=
  match o with
  | .next t => t
  | .fault _ => s
  | .refused _ => s

/-- The outcome is a next state. -/
def isNext (o : Out) : Bool :=
  match o with
  | .next _ => true
  | .fault _ => false
  | .refused _ => false

/-- The machine after the instruction's own effect. -/
def after (i : Instr) (regs : List Word) : State := stateOf (machine [] regs) (exec i (machine [] regs))

/-- The engine after a few ticks. -/
def ticked (n : Nat) (s : State) : State := stateOf s (Host.Core.run Sys2Proof.core n s)

/-- R221: the §8 scenario, 5 + 10. -/
theorem test_add : readReg (after (.add 2 0 1) [5, 10]) 2 = 15 := by decide
/-- R221: `0xFFFFFFFF + 1 = 0` sets the zero condition, and `rd = rs1` reads the old value. -/
theorem test_add_wraps : readReg (after (.add 0 0 1) [0xFFFFFFFF, 1]) 0 = 0 ∧
    zeroCond (after (.add 0 0 1) [0xFFFFFFFF, 1]) = true := by decide
/-- R222: `rs1` minus `rs2`. -/
theorem test_sub : readReg (after (.sub 0 0 1) [3, 1]) 0 = 2 := by decide
/-- R222: `0 - 1`. -/
theorem test_sub_borrows : readReg (after (.sub 3 2 1) [0, 1, 0]) 3 = 0xFFFFFFFF := by decide
/-- R223. -/
theorem test_and : readReg (after (.and 2 0 1) [0x0000FF0F, 0x00000FF0]) 2 = 0x00000F00 := by decide
/-- R224. -/
theorem test_or : readReg (after (.or 2 0 1) [0x0000FF0F, 0x00000FF0]) 2 = 0x0000FFFF := by decide
/-- R225. -/
theorem test_xor : readReg (after (.xor 2 0 1) [0x0000FF0F, 0x00000FF0]) 2 = 0x0000F0FF := by decide
/-- R240: `x[1] = 3`, `x[2] = 4`. -/
theorem test_mul : readReg (after (.mul 3 1 2) [0, 3, 4]) 3 = 12 := by decide
/-- R240: `0xFFFFFFFF * 0xFFFFFFFF = 1` and `0x80000000 * 2 = 0`. -/
theorem test_mul_low_half : readReg (after (.mul 0 1 1) [0, 0xFFFFFFFF]) 0 = 1 ∧
    readReg (after (.mul 0 1 2) [0, 0x80000000, 2]) 0 = 0 := by decide
/-- R226: `MOVC Rd,#-1`. -/
theorem test_movc_extends : readReg (after (.movc 1 (-1)) []) 1 = 0xFFFFFFFF := by decide
/-- R226, R23: MOVC of 0 makes the zero condition true. -/
theorem test_movc_zero : zeroCond (after (.movc 0 0) [5]) = true ∧ zeroCond (after (.movc 0 1) [5]) = false := by decide
/-- R280: base plus displacement. -/
theorem test_load : readReg (after (.load 3 0 1) [1]) 3 = 7 := by decide
/-- R280, R383: a negative sum is out of range. -/
theorem test_load_out_of_range : (after (.load 3 0 (-2)) [1]).error = some ⟨4000, 0xFFFFFFFF⟩ ∧
    (after (.load 3 0 (-2)) [1]).committed = 0 := by decide
/-- R281: base plus index. -/
theorem test_ldr : readReg (after (.ldr 3 0 1) [1, 4]) 3 = 1 := by decide
/-- R281, R77: the first index that does not exist; R220: the pc has moved, the error names the instruction's own. -/
theorem test_ldr_out_of_range : (after (.ldr 3 0 1) [4, 4]).error = some ⟨4000, 8⟩ ∧ (after (.ldr 3 0 1) [4, 4]).pc = 4004 := by
  decide
/-- R282: value register, base register, displacement, as in the §8 scenario. -/
theorem test_store : (after (.store 2 0 0) [5, 10, 15]).dmem.read 5 = 15 := by decide
/-- R282: a faulting store writes nothing. -/
theorem test_store_out_of_range : (after (.store 2 0 3) [5, 10, 15]).dmem = [(2, 7), (5, 1)] ∧
    (after (.store 2 0 3) [5, 10, 15]).error = some ⟨4000, 8⟩ := by decide
/-- R283: value, base, index. -/
theorem test_str : (after (.str 3 2 1) [0, 3, 4, 7]).dmem = [(2, 7), (5, 1), (7, 7)] := by decide
/-- The canonical form: storing what an unlisted word reads as removes the entry (log 4). -/
theorem test_str_zero : (after (.str 3 2 1) [0, 1, 1, 0]).dmem = [(5, 1)] := by decide
/-- R250: no producer, so not taken. -/
theorem test_bz_no_producer : (after (.bz 8) []).pc = 4004 := by decide
/-- R250: taken when the last value written is 0. -/
theorem test_bz_taken : (stateOf (machine [] []) (exec (.bz 8) (after (.movc 0 0) []))).pc = 4012 := by decide
/-- R251: no producer, so taken, backwards. -/
theorem test_bnz_no_producer : (after (.bnz (-4)) []).pc = 3996 := by decide
/-- R251: not taken when the last value written is 0. -/
theorem test_bnz_not_taken : (stateOf (machine [] []) (exec (.bnz 8) (after (.movc 0 0) []))).pc = 4008 := by decide
/-- R252: register plus literal, and the BTB is trained with it (R256). -/
theorem test_jump : (after (.jump 1 12) [0, 4000]).pc = 4012 ∧
    btbLookup (after (.jump 1 12) [0, 4000]) 4000 = (true, true, 4012) := by decide
/-- R346. -/
theorem test_halt : (after .halt [5]).halted = true ∧ (after .halt [5]).committed = 1 ∧
    readReg (after .halt [5]) 0 = 5 := by decide

/-! ### One step of the engine -/

/-- R373, tick 1: the first instruction is in the latch. -/
theorem test_step_fetches : (ticked 1 (machine [.movc 0 5] [])).pc = 4004 ∧
    (ticked 1 (machine [.movc 0 5] [])).dr = some (drOf 4000 (.movc 0 5)) := by decide
/-- R373, tick 2: rob 0, the first free register. -/
theorem test_step_dispatches : (ticked 2 (machine [.movc 0 5] [])).rat = [4, 1, 2, 3] ∧
    (ticked 2 (machine [.movc 0 5] [])).zsrc = some 4 ∧ (ticked 2 (machine [.movc 0 5] [])).robCount = 1 := by decide
/-- R416: an INT instruction commits in the sixth tick. -/
theorem test_step_commits : (ticked 5 (machine [.movc 0 5] [])).committed = 0 ∧
    (ticked 6 (machine [.movc 0 5] [])).committed = 1 ∧ readReg (ticked 6 (machine [.movc 0 5] [])) 0 = 5 ∧
    done (ticked 6 (machine [.movc 0 5] [])) = true := by decide

/-! ### Witnesses: states and operands that meet the statements' hypotheses -/

/-- The head is a complete MOVC. -/
def headMovc : State := ticked 5 (machine [.movc 0 5, .movc 0 6] [])
/-- The head is a complete store to the last word. -/
def headStore : State := ticked 4 (machine [.store 1 0 4] [3, 9])
/-- The head is a store with a recorded fault. -/
def headFault : State := ticked 4 (machine [.store 1 0 5] [3, 9])
/-- The head is a mispredicted branch with a younger instruction behind it. -/
def headMispredicted : State := ticked 4 (machine [.bnz 8, .movc 0 5] [])
/-- The head is a correctly predicted branch. -/
def headPredicted : State := ticked 4 (machine [.bz 8, .movc 0 5] [])
/-- The head is a complete HALT. -/
def headHalt : State := ticked 5 (machine [.halt] [])
/-- A load whose address is known waits for its access. -/
def loadReady : State := ticked 4 (machine [.load 1 0 0] [2])
/-- A machine all of whose physical registers are in use. -/
def noneFree : State := { machine [] [7] with free := List.replicate 6 false }
/-- The latch Fetch makes of an instruction at 4000. -/
def latch (i : Instr) : DrLatch := drOf 4000 i
/-- A machine whose latch holds an instruction. -/
def dispatching (i : Instr) : State := { machine [i] [] with dr := some (latch i), pc := 4004 }
/-- A BTB with one entry for 4000. -/
def oneBranch (taken : Bool) : List (Option BtbEntry) := [none, some ⟨4000, taken, 4012⟩]
/-- A ROB entry of a branch at 4000. -/
def branchEntry : RobEntry := dispatchedEntry (latch (.bz 8)) none none false 0

theorem test_witness_SlotUsageAndUnitClass : (machine [] []).zsrc = none ∧
    (ticked 2 (machine [.movc 0 5] [])).zsrc = some 4 ∧ (ticked 2 (machine [.movc 0 5] [])).prf[4]? = some ⟨0, false⟩ ∧
    hasDest (latch (.add 1 2 3)).opcode = true ∧ pickFree (machine [] []) = some 4 ∧ hasDest (latch .halt).opcode = false := by
  decide
theorem test_witness_DecodeEncodeRoundTrip : [Instr.movc 15 (-32768), .store 15 15 32767, .str 15 15 15, .halt].map
    (Instr.wellFormed 16) = [true, true, true, true] := by decide
theorem test_witness_WordsReadExactly : field 0x0FFFFFFF 28 4 = 0 ∧ field 0x10000000 28 4 ≠ 0 := by decide
theorem test_witness_ResetState : tiny.numArch < tiny.numPhys := by decide
theorem test_witness_InitializeEstablishesInv : tiny.Legal 1 ∧
    (initializeRecords tiny [{ opcode := 7, rd := 3, imm := 5 }] [1] [(7, 2)]).toOption.isSome = true := by decide
theorem test_witness_InitializeRejectsLowestBadRecord :
    initializeRecords tiny [{ opcode := 15 }, { opcode := 0 }, { opcode := 16 }] [] [] = .error 1 ∧
    initializeRecords tiny [{ opcode := 15, rd := 9 }, { opcode := 1, rd := 4 }] [] [] = .error 1 := by decide
theorem test_witness_PackedProgramBinds : ({} : Params).numArch = 16 ∧ ({} : Params).LegalPacked 2 ∧
    (initializeWords {} [0x70000005, 0xF0000000] [] []).toOption.isSome = true ∧
    initializeWords {} [0x70000005, 0x00000000] [] [] = .error 1 ∧
    (initializeWords tiny [0x70000005] [] []).toOption.isSome = true := by decide

theorem test_witness_AluResults : AtBoundary (machine [] [5, 10]) ∧ 3 < (machine [] [5, 10]).cfg.numArch := by decide
theorem test_witness_MovcResult : AtBoundary (machine [] []) ∧ 3 < (machine [] []).cfg.numArch ∧
    -32768 ≤ (-32768 : Int) ∧ (32767 : Int) ≤ 32767 := by decide
theorem test_witness_LoadResults : AtBoundary (machine [] [3, 4]) ∧
    (readReg (machine [] [3, 4]) 0 + BitVec.ofInt 32 4).toNat = 7 ∧
    (readReg (machine [] [3, 4]) 0 + readReg (machine [] [3, 4]) 1).toNat = 7 ∧
    (machine [] [3, 4]).cfg.dataMemSize = 8 := by decide
theorem test_witness_StoreResults : (machine [] [3, 4]).dmem.wf = true ∧
    (storeAddr (readReg (machine [] [3, 4]) 0) (sext32 4)).toNat = 7 ∧
    (strAddr (readReg (machine [] [3, 4]) 0) (readReg (machine [] [3, 4]) 1)).toNat = 7 := by decide
theorem test_witness_OutOfRangeRaisesError : (machine [] [4, 4]).cfg.dataMemSize = 8 ∧
    (readReg (machine [] [4, 4]) 0 + BitVec.ofInt 32 4).toNat = 8 ∧
    (readReg (machine [] [4, 4]) 0 + readReg (machine [] [4, 4]) 1).toNat = 8 ∧
    (readReg (machine [] [4, 4]) 1 + BitVec.ofInt 32 (-5)).toNat = 0xFFFFFFFF ∧
    (readReg (machine [] [4, 4]) 1 + readReg (machine [] [4, 4]) 0).toNat = 8 := by decide
theorem test_witness_BranchResults : 3 < (machine [] []).cfg.numArch ∧ -32768 ≤ (-4 : Int) ∧ (-4 : Int) ≤ 32767 := by decide
theorem test_witness_RefusesExactlyMalformed : isNext (exec (.add 4 0 0) (machine [] [])) = false ∧
    (Instr.add 4 0 0).wellFormed (machine [] []).cfg.numArch = false ∧
    (Instr.add 3 0 0).wellFormed (machine [] []).cfg.numArch = true := by decide
theorem test_witness_NoFreeRegisterWaits : (Instr.load 3 0 0).wellFormed noneFree.cfg.numArch = true ∧
    hasDest (Instr.load 3 0 0).opcode = true ∧ pickFree noneFree = none ∧ loadAddress (.load 3 0 0) noneFree = some 7 ∧
    noneFree.cfg.dataMemSize = 8 ∧ loadAddress (.movc 3 0) noneFree = none := by decide
theorem test_witness_ExecMatchesReference : AtBoundary (machine [] [4, 4]) ∧
    (Instr.str 3 3 3).wellFormed (machine [] [4, 4]).cfg.numArch = true := by decide

theorem test_witness_AllocTakesLowestFree : (machine [] []).prf.length = (machine [] []).free.length ∧
    pickFree (machine [] []) = some 4 ∧ pickFree noneFree = none := by decide
theorem test_witness_RenameInstallsMapping : pickFree (machine [] []) = some 4 ∧
    (machine [] []).prf.length = (machine [] []).free.length ∧ 3 < (machine [] []).rat.length := by decide
theorem test_witness_RetireCommitsMapping : 3 < (machine [] []).rrat.length ∧ (machine [] []).free[3]? = some false ∧
    (machine [] [7]).prf[0]? = some ⟨7, true⟩ := by decide

set_option synthInstance.maxSize 2000 in
theorem test_witness_RenameSoundness : EngineInv headMovc ∧
    (robInOrder headMovc).map (fun x => x.2.pd) = [some 4, some 5] := by decide
set_option synthInstance.maxSize 2000 in
theorem test_witness_EmptyMachineDispatches : EngineInv (machine [.halt] []) ∧ (machine [.halt] []).robCount = 0 := by decide

/-- One state per clause: recovering, latch full, pc at the end of the program, pc at the last instruction. -/
theorem test_witness_FetchReadsNext :
    (flushState ⟨[], none, 0⟩ 4000 (machine [.halt] [])).fetchRecover = true ∧
    (dispatching .halt).fetchRecover = false ∧ (dispatching .halt).dr ≠ none ∧
    inRange { machine [.halt] [] with pc := 4004 } 4004 = false ∧ inRange (machine [.halt] []) 4000 = true ∧
    (machine [.halt] []).dr = none ∧ (machine [.halt] []).prog.all (Instr.wellFormed 4) = true := by decide
/-- A register stall, a stall on each queue at exactly its size, and no stall. -/
theorem test_witness_DispatchStalls : pickFree noneFree = none ∧ hasDest (latch (.movc 0 0)).opcode = true ∧
    stallReason .halt { machine [] [] with robCount := 3 } = .structuralStall ∧
    stallReason .load { machine [] [] with lsqCount := 2 } = .structuralStall ∧
    stallReason .bz { machine [] [] with bis := [⟨[], none, 0⟩, ⟨[], none, 1⟩] } = .structuralStall ∧
    stallReason .load (machine [] []) = .none := by decide
theorem test_witness_SourcesLookedUpFirst : (dispatching (.add 1 1 3)).dr = some (latch (.add 1 1 3)) ∧
    stallReason .add (dispatching (.add 1 1 3)) = .none ∧ Shape (dispatching (.add 1 1 3)) ∧
    hasDest .add = true ∧ (latch (.add 1 1 3)).rd = 1 ∧ srcRegs (latch (.add 1 1 3)) = [1, 3] ∧
    (∀ p ∈ (dispatching (.add 1 1 3)).rat, p < 6) ∧ (dispatching (.add 1 1 3)).zsrc = none ∧
    (dispatching (.add 1 1 3)).free[1]? = some false ∧
    (dispatching (.bz 8)).dr = some (latch (.bz 8)) ∧ stallReason .bz (dispatching (.bz 8)) = .none ∧
    readsZero (latch (.bz 8)).opcode = true := by decide
theorem test_witness_DispatchAllocates : (dispatching (.load 1 1 3)).dr = some (latch (.load 1 1 3)) ∧
    stallReason .load (dispatching (.load 1 1 3)) = .none ∧
    sourceTags (latch (.load 1 1 3)) (dispatching (.load 1 1 3)) = some [⟨1, true⟩] ∧ hasDest .load = true ∧
    hasDest .halt = false ∧ usesLsq .halt = false ∧ sourceTags (latch .halt) (dispatching .halt) = some [] := by decide
/-- A hit predicted taken, a hit predicted not taken, a miss, and an instruction that is no branch. -/
theorem test_witness_BranchPredictsAndCheckpoints :
    btbLookup { dispatching (.bz 8) with btb := oneBranch true } 4000 = (true, true, 4012) ∧
    (btbLookup { dispatching (.bz 8) with btb := oneBranch false } 4000).2.1 = false ∧
    (btbLookup (dispatching (.bz 8)) 4000).1 = false ∧ stallReason .bz (dispatching (.bz 8)) = .none ∧
    sourceTags (latch (.bz 8)) (dispatching (.bz 8)) = some [] ∧ isBranch .halt = false ∧
    (dispatching (.bz 8)).robTail < (dispatching (.bz 8)).rob.length := by decide

theorem test_witness_BroadcastWakesConsumers : prfReady (machine [] []) 4 = some false := by decide
theorem test_witness_SelectOldestReady : (selectFor .int (ticked 2 (machine [.movc 0 5] []))).map Prod.fst = some 0 ∧
    selectFor .mem (ticked 2 (machine [.movc 0 5] [])) = none := by decide
theorem test_witness_IssueFillsStageOne :
    (unitStages .int (ticked 3 (machine [.movc 0 5] [])))[0]?.join.isSome = true ∧
    (unitStages .mem (ticked 2 (machine [.load 1 3 2] [])))[0]? = some none ∧
    (selectFor .mem (ticked 2 (machine [.load 1 3 2] []))).map (fun x => x.2.src) = some [⟨3, true⟩] ∧
    (ticked 2 (machine [.load 1 3 2] [])).prf[3]? = some ⟨0, true⟩ := by decide
theorem test_witness_UnitsShiftEveryTick :
    (unitStages .mul (machine [] [])).getLast? = some none ∧
    (unitStages .int (ticked 4 (machine [.movc 0 5, .movc 1 6] []))).getLast?.join.isSome = true ∧
    ((lastOp (ticked 4 (machine [.movc 0 5, .movc 1 6] [])).intU).any fun op =>
      isNext (lastStage .int op (ticked 4 (machine [.movc 0 5, .movc 1 6] [])))) = true := by decide
theorem test_witness_AluLastStage :
    (lastOp (ticked 4 (machine [.movc 0 5] [])).intU).map (fun op => (op.opcode, op.pd, op.rob)) = some (.movc, some 4, 0) ∧
    prfReady (ticked 4 (machine [.movc 0 5] [])) 4 = some false ∧
    (robAt (ticked 4 (machine [.movc 0 5] [])) 0).isSome = true ∧
    (lastOp (ticked 4 (machine [.add 0 1 2] [1, 2, 3])).intU).map UnitLatch.vals = some [2, 3] ∧
    (lastOp (ticked 4 (machine [.halt] [])).intU).map UnitLatch.opcode = some .halt := by decide
theorem test_witness_BranchUnitResolves :
    (lastOp (ticked 3 (machine [.bz 8] [])).brU).map (fun op => (op.opcode, op.vals, op.rob)) = some (.bz, [], 0) ∧
    (lastOp (ticked 3 (machine [.jump 1 8] [0, 4])).brU).map (fun op => (op.opcode, op.vals)) = some (.jump, [4]) ∧
    (robAt (ticked 3 (machine [.bz 8] [])) 0).isSome = true := by decide
/-- A load and a store at the last word, a store one past it. -/
theorem test_witness_MemoryUnitRecords :
    (lastOp (ticked 3 (machine [.load 1 0 4] [3])).memU).map (fun op => (op.lsq, op.rob, op.val 1 + op.imm)) =
      some (some 0, 0, 7) ∧
    (lsqAt (ticked 3 (machine [.load 1 0 4] [3])) 0).map LsqEntry.isStore = some false ∧
    (lastOp (ticked 3 (machine [.store 1 0 4] [3])).memU).map (fun op => op.val 2 + op.imm) = some 7 ∧
    (lsqAt (ticked 3 (machine [.store 1 0 4] [3])) 0).map LsqEntry.isStore = some true ∧
    (lastOp (ticked 3 (machine [.store 1 0 5] [3])).memU).map (fun op => op.val 2 + op.imm) = some 8 := by decide
set_option synthInstance.maxSize 2000 in
theorem test_witness_LoadAccessDelivers :
    (lsqInOrder loadReady).map (fun x => (x.1, x.2.isStore, x.2.addrValid, x.2.done, x.2.pd, x.2.addr, x.2.rob)) =
      [(0, false, true, false, some 4, 2, 0)] ∧
    prfReady loadReady 4 = some false ∧ (robAt loadReady 0).isSome = true ∧ lsqInOrder (machine [] []) = [] := by decide
theorem test_witness_BtbLookupIff : (((oneBranch true).filterMap id).map BtbEntry.tag).Nodup ∧
    (oneBranch true)[1]? = some (some ⟨4000, true, 4012⟩) ∧ btbFind 4004 0 (oneBranch true) = none := by decide
/-- A hit, an empty slot, a victim. -/
theorem test_witness_BtbUpdateTrains : (oneBranch true).length = tiny.btbSize ∧ 0 < tiny.btbSize ∧
    (btbFind 4000 0 (oneBranch true)).isSome = true ∧ btbFind 4004 0 (oneBranch true) = none ∧
    firstNone 0 (oneBranch true) = some 0 ∧ firstNone 0 [some (⟨4000, true, 0⟩ : BtbEntry), some ⟨4004, true, 0⟩] = none := by
  decide

set_option synthInstance.maxSize 2000 in
theorem test_witness_InvNeverStops : EngineInv headFault ∧ EngineInv loadReady := by decide
theorem test_witness_CommitWaitsOrRaises : (machine [] []).robCount = 0 ∧ loadReady.robCount ≠ 0 ∧
    (robAt loadReady loadReady.robHead).map RobEntry.complete = some false ∧ done headFault = false ∧ headFault.robCount ≠ 0 ∧
    (robAt headFault headFault.robHead).map (fun e => (e.complete, e.fault)) = some (true, true) := by decide
set_option synthInstance.maxSize 2000 in
theorem test_witness_CommitRegister : EngineInv headMovc ∧ headMovc.robCount ≠ 0 ∧
    (robAt headMovc headMovc.robHead).map (fun e => (e.complete, e.fault, hasDest e.opcode)) = some (true, false, true) := by
  decide
set_option synthInstance.maxSize 2000 in
theorem test_witness_CommitRegister_load : EngineInv (ticked 5 (machine [.load 1 0 0] [2])) ∧
    (robAt (ticked 5 (machine [.load 1 0 0] [2])) 0).map (fun e => (e.complete, e.fault, usesLsq e.opcode, hasDest e.opcode)) =
      some (true, false, true, true) := by decide
set_option synthInstance.maxSize 2000 in
theorem test_witness_CommitStore : EngineInv headStore ∧ headStore.robCount ≠ 0 ∧
    (robAt headStore headStore.robHead).map (fun e => (e.complete, e.fault, isStoreOp e.opcode)) = some (true, false, true) := by
  decide
set_option synthInstance.maxSize 2000 in
theorem test_witness_CommitBranch : EngineInv headPredicted ∧ headPredicted.robCount ≠ 0 ∧
    (robAt headPredicted headPredicted.robHead).map (fun e => (e.complete, isBranch e.opcode, e.mispredicted)) =
      some (true, true, false) := by decide
set_option synthInstance.maxSize 2000 in
theorem test_witness_CommitHalt : EngineInv headHalt ∧ headHalt.robCount ≠ 0 ∧
    (robAt headHalt headHalt.robHead).map (fun e => (e.complete, e.opcode)) = some (true, .halt) := by decide
set_option synthInstance.maxSize 2000 in
theorem test_witness_FlushCompleteness : EngineInv headMispredicted ∧ headMispredicted.robCount = 2 ∧
    (robAt headMispredicted headMispredicted.robHead).map (fun e => (e.complete, e.mispredicted)) = some (true, true) := by
  decide

theorem test_witness_DoneStepChangesNothing : done (machine [] []) = true ∧ done (after .halt []) = true := by decide
theorem test_witness_StepFetchesInstructionAtPc : NothingInFlight (machine [.halt] []) ∧ done (machine [.halt] []) = false ∧
    instrAt (machine [.halt] []) 4000 = some .halt ∧ Instr.halt.wellFormed 4 = true := by decide
theorem test_witness_StepStatusFields : isNext (step headMovc) = true ∧ isNext (step (machine [] [])) = true := by decide
theorem test_witness_MemoryChangesOnlyByCommittedStore : headStore.dmem.wf = true ∧ isNext (step headStore) = true ∧
    (ticked 1 headStore).dmem.read 7 ≠ headStore.dmem.read 7 := by decide
set_option synthInstance.maxSize 2000 in
theorem test_witness_RegisterChangesOnlyByCommit : EngineInv headMovc ∧ isNext (step headMovc) = true ∧
    readReg (ticked 1 headMovc) 0 ≠ readReg headMovc 0 := by decide
theorem test_witness_StepKeepsMemoryCanonical : MemOk headStore ∧ isNext (step headStore) = true := by decide
theorem test_witness_StepKeepsShape : Shape headMispredicted ∧ isNext (step headMispredicted) = true := by decide
set_option synthInstance.maxSize 2000 in
theorem test_witness_StepKeepsInv : EngineInv headMispredicted ∧ isNext (step headMispredicted) = true := by decide
theorem test_witness_CommittedNeverExceedsCycle : Reachable (machine [.halt] []) :=
  ⟨tiny, [.halt], [], [(2, 7), (5, 1)], 0, by decide, by decide, by decide, rfl⟩
set_option synthInstance.maxSize 2000 in
theorem test_witness_EngineRunsNextInstructionAsExec : AboutToRun (.load 1 0 0) (machine [.load 1 0 0] [2]) ∧
    isNext (Host.Core.run Sys2Proof.core 6 (machine [.load 1 0 0] [2])) = true ∧
    decode (BitVec.ofNat 32 0xFFFFFFFF) = .ok .halt ∧ 0xFFFFFFFF < 2 ^ 32 := by decide
set_option synthInstance.maxSize 2000 in
/-- With a cycle budget of exactly the ticks the instruction takes. -/
theorem test_witness_EngineRuns_budget : AboutToRun .halt
    { machine [.halt] [] with cfg := { tiny with cycleBudget := some 6 } } := by decide
set_option synthInstance.maxSize 2000 in
/-- A branch predicted taken to where no instruction is, and a load out of range. -/
theorem test_witness_LoneInstructionRunsAsExec :
    AboutToRun (.bz 8) { machine [.bz 8] [] with btb := oneBranch true } ∧
    inRange { machine [.bz 8] [] with btb := oneBranch true } 4004 = false ∧
    btbLookup { machine [.bz 8] [] with btb := oneBranch true } 4000 = (true, true, 4012) ∧
    inRange { machine [.bz 8] [] with btb := oneBranch true } 4012 = false ∧
    AboutToRun (.load 1 0 7) (machine [.load 1 0 7] [1]) ∧ inRange (machine [.load 1 0 7] [1]) 4004 = false ∧
    isBranch .load = false := by decide
theorem test_witness_ProgramOrderCommit : tiny.Legal 1 ∧ Instr.halt.wellFormed tiny.numArch = true ∧
    (∀ x ∈ [((7 : Nat), (2 : Word))], x.1 < tiny.dataMemSize) ∧ (oneBranch true).length = tiny.btbSize ∧
    BtbOk (primed tiny [.halt] [] [(7, 2)] (oneBranch true) 1) ∧
    isNext (step (primed tiny [.halt] [] [(7, 2)] (oneBranch true) 1)) = true := by decide
theorem test_witness_PredictionInvisible : tiny.Legal 1 ∧
    ({ tiny with btbSize := 1, btbVictim := .free, cycleBudget := some 6 } : Params).Legal 1 ∧
    Instr.halt.wellFormed tiny.numArch = true ∧ BtbOk (primed tiny [.halt] [] [] (oneBranch true) 1) ∧
    BtbOk (primed { tiny with btbSize := 1, btbVictim := .free, cycleBudget := some 6 } [.halt] [] [] [none] 0) ∧
    runOutcome (ticked 6 (primed tiny [.halt] [] [] (oneBranch true) 1)) ≠ .budget ∧
    runOutcome (ticked 6 (primed { tiny with btbSize := 1, btbVictim := .free, cycleBudget := some 6 } [.halt] [] []
      [none] 0)) ≠ .budget := by decide

end Sys2Proof.Tests
end

/-! ## Reading a program

SUPPORT. Which records and words name an instruction, what the fields of a packed word can hold, and what `collect` accepts
(R102, R109, R110, R384). -/

namespace Sys2Proof

/-- The opcodes 1 to 15 and no others name an instruction (R106, R109). -/
theorem StaticRecord.toInstr_isOk (r : StaticRecord) : (∃ i, r.toInstr = .ok i) ↔ 1 ≤ r.opcode ∧ r.opcode ≤ 15 := by
  unfold StaticRecord.toInstr
  split
  case h_16 =>
    simp only [imp_false] at *
    simp only [reduceCtorEq, exists_false, false_iff]
    omega
  all_goals simp [*]

/-- Fields in range make a well-formed instruction, whatever the opcode. -/
theorem StaticRecord.toInstr_wellFormed {n : Nat} {r : StaticRecord} {i : Instr} (hrd : r.rd < n) (hrs1 : r.rs1 < n)
    (hrs2 : r.rs2 < n) (hrs3 : r.rs3 < n) (himm : immOk r.imm = true) (h : r.toInstr = .ok i) : i.wellFormed n = true := by
  unfold StaticRecord.toInstr at h
  split at h <;> cases h <;> simp [Instr.wellFormed, regOk, *]

/-- The record check of R384: the record names an instruction and that instruction is legal. -/
theorem StaticRecord.validate_eq_ok {n : Nat} {r : StaticRecord} {i : Instr} :
    r.validate n = .ok i ↔ r.toInstr = .ok i ∧ i.wellFormed n = true := by
  cases hr : r.toInstr with
  | error e => simp [validate, hr]
  | ok j =>
    by_cases hj : j.wellFormed n = true
    · simp only [validate, hr, if_pos hj]
      exact ⟨by rintro ⟨⟩; exact ⟨rfl, hj⟩, fun h => h.1⟩
    · simp only [validate, hr, if_neg hj, reduceCtorEq, false_iff]
      rintro ⟨⟨⟩, h⟩
      exact hj h

theorem field_lt (w : Word) (lo len : Nat) : field w lo len < 2 ^ len := (w.extractLsb' lo len).isLt

theorem immOk_immField (w : Word) : immOk (immField w) = true := by
  have hlo := (w.extractLsb' 0 16).le_toInt
  have hhi := (w.extractLsb' 0 16).toInt_lt
  rw [immOk, Bool.and_eq_true]
  exact ⟨decide_eq_true hlo, decide_eq_true (Int.le_of_lt_add_one hhi)⟩

/-- The packing's register fields are four bits wide, so no word that decodes is malformed on sixteen registers (R102, R108). -/
theorem decode_wellFormed {w : Word} {i : Instr} (h : decode w = .ok i) : i.wellFormed 16 = true :=
  StaticRecord.toInstr_wellFormed (field_lt w _ 4) (field_lt w _ 4) (field_lt w _ 4) (field_lt w _ 4) (immOk_immField w) h

/-- Only the reserved nibble 0 is no instruction (R109). -/
theorem decode_isOk (w : Word) : (∃ i, decode w = .ok i) ↔ field w 28 4 ≠ 0 := by
  have hlt : field w 28 4 < 16 := field_lt w 28 4
  refine (StaticRecord.toInstr_isOk (unpack w)).trans ?_
  change 1 ≤ field w 28 4 ∧ field w 28 4 ≤ 15 ↔ _
  omega

/-- On sixteen registers the record check of a packed word adds nothing to the decoder. -/
theorem validate_unpack_eq_ok {w : Word} {i : Instr} : (unpack w).validate 16 = .ok i ↔ decode w = .ok i :=
  StaticRecord.validate_eq_ok.trans (and_iff_left_of_imp decode_wellFormed)

theorem collect_cons_eq_ok {α : Type} {f : α → Except DecodeError Instr} {k : Nat} {a : α} {as : List α} {is : List Instr} :
    collect f k (a :: as) = .ok is ↔ ∃ i js, f a = .ok i ∧ collect f (k + 1) as = .ok js ∧ is = i :: js := by
  cases hf : f a with
  | error e => simp [collect, hf]
  | ok i => cases hrest : collect f (k + 1) as <;> simp [collect, hf, hrest, eq_comm]

/-- `collect` accepts a list iff every element names an instruction, and answers those instructions in order. -/
theorem collect_eq_ok {α : Type} {f : α → Except DecodeError Instr} {k : Nat} {as : List α} {is : List Instr} :
    collect f k as = .ok is ↔ as.map f = is.map .ok := by
  induction as generalizing k is with
  | nil => cases is <;> simp [collect]
  | cons a as ih =>
    simp only [collect_cons_eq_ok, ih]
    cases is <;> simp

theorem collect_isOk {α : Type} {f : α → Except DecodeError Instr} {k : Nat} {as : List α} :
    (∃ is, collect f k as = .ok is) ↔ ∀ a ∈ as, ∃ i, f a = .ok i := by
  induction as generalizing k with
  | nil => simp [collect]
  | cons a as ih =>
    rw [List.forall_mem_cons, ← ih (k := k + 1)]
    simp [collect_cons_eq_ok]

/-- Instruction `k` is what element `k` names (R111). -/
theorem collect_getElem? {α : Type} {f : α → Except DecodeError Instr} {k j : Nat} {as : List α} {is : List Instr} {a : α}
    (h : collect f k as = .ok is) (ha : as[j]? = some a) : ∃ i, is[j]? = some i ∧ f a = .ok i := by
  have hj : (as.map f)[j]? = (is.map .ok)[j]? := by rw [collect_eq_ok.1 h]
  simpa [ha, eq_comm] using hj

theorem collect_length {α : Type} {f : α → Except DecodeError Instr} {k : Nat} {as : List α} {is : List Instr}
    (h : collect f k as = .ok is) : is.length = as.length := by
  simpa using (congrArg List.length (collect_eq_ok.1 h)).symm

/-- Every instruction of an accepted program is one that some element names. -/
theorem exists_mem_of_collect {α : Type} {f : α → Except DecodeError Instr} {k : Nat} {as : List α} {is : List Instr} {i : Instr}
    (h : collect f k as = .ok is) (hi : i ∈ is) : ∃ a ∈ as, f a = .ok i := by
  have hmem : Except.ok i ∈ as.map f := collect_eq_ok.1 h ▸ List.mem_map_of_mem hi
  exact List.mem_map.1 hmem

end Sys2Proof

/-! ## The initial state

SUPPORT. What the queries of the invariant find in the state `initialize` builds, and the invariant there, clause by clause
(R46, R47, R366). -/

namespace Sys2Proof.Machine

theorem Memory.ofList_bound {l : List (Nat × Word)} {n : Nat} (h : ∀ x ∈ l, x.1 < n) : ∀ x ∈ ofList l, x.1 < n := by
  induction l with
  | nil => exact h
  | cons x l ih =>
    obtain ⟨hx, hl⟩ := List.forall_mem_cons.1 h
    exact write_bound x.2 hx (ih hl)

section
variable (c : Params) (prog : List Instr) (initReg : List Word) (m : Memory)

/-! The fields and queries that the invariant reads. -/

@[simp] theorem State.initial_cfg : (State.initial c prog initReg m).cfg = c := rfl
@[simp] theorem State.initial_prog : (State.initial c prog initReg m).prog = prog := rfl
@[simp] theorem State.initial_rat : (State.initial c prog initReg m).rat = List.range c.numArch := rfl
@[simp] theorem State.initial_rrat : (State.initial c prog initReg m).rrat = List.range c.numArch := rfl
@[simp] theorem State.initial_zsrc : (State.initial c prog initReg m).zsrc = none := rfl
@[simp] theorem State.initial_robCount : (State.initial c prog initReg m).robCount = 0 := rfl
@[simp] theorem State.initial_lsqCount : (State.initial c prog initReg m).lsqCount = 0 := rfl
@[simp] theorem State.initial_dr : (State.initial c prog initReg m).dr = none := rfl
@[simp] theorem State.initial_bis : (State.initial c prog initReg m).bis = [] := rfl
@[simp] theorem State.initial_dmem : (State.initial c prog initReg m).dmem = m := rfl

theorem State.initial_free {p : Nat} (hp : p < c.numPhys) :
    (State.initial c prog initReg m).free[p]? = some (decide (c.numArch ≤ p)) := by
  simp [State.initial, hp]

theorem State.initial_prf {p : Nat} (hp : p < c.numPhys) : (State.initial c prog initReg m).prf[p]? =
    some (if p < c.numArch then ⟨initReg.getD p 0, true⟩ else ⟨0, false⟩) := by
  simp [State.initial, hp]

@[simp] theorem robAt_initial (r : Nat) : robAt (State.initial c prog initReg m) r = none := by
  simp only [robAt, State.initial, List.getElem?_replicate]
  split <;> rfl

@[simp] theorem lsqAt_initial (l : Nat) : lsqAt (State.initial c prog initReg m) l = none := by
  simp only [lsqAt, State.initial, List.getElem?_replicate]
  split <;> rfl

@[simp] theorem robInOrder_initial : robInOrder (State.initial c prog initReg m) = [] := rfl
@[simp] theorem lsqInOrder_initial : lsqInOrder (State.initial c prog initReg m) = [] := rfl
@[simp] theorem unitOps_initial : unitOps (State.initial c prog initReg m) = [] := rfl

@[simp] theorem iqEntries_initial : iqEntries (State.initial c prog initReg m) = [] := by
  simp [iqEntries, State.initial]

@[simp] theorem unitStages_initial (u : UnitClass) (op : UnitLatch) :
    some op ∉ unitStages u (State.initial c prog initReg m) := by
  cases u <;> simp [unitStages, State.initial]

@[simp] theorem inProgress_initial : inProgress (State.initial c prog initReg m) = [] := by simp [inProgress]

@[simp] theorem owned_initial : owned (State.initial c prog initReg m) = List.range c.numArch := by
  simp [owned, robDests]

/-! The clauses of the invariant. -/

theorem shape_initial : Shape (State.initial c prog initReg m) := by
  simp [Shape, State.initial]

theorem rings_initial (hrob : 1 ≤ c.robSize) (hlsq : 1 ≤ c.lsqSize) : Rings (State.initial c prog initReg m) :=
  ⟨hrob, Nat.zero_le _, (Nat.zero_mod _).symm, by simp, hlsq, Nat.zero_le _, (Nat.zero_mod _).symm, by simp⟩

theorem btbOk_initial (hbtb : 1 ≤ c.btbSize) : BtbOk (State.initial c prog initReg m) :=
  ⟨by simp [State.initial], hbtb⟩

/-- Register `p` below `NUM_ARCH` is owned by `Rp` and every other is free (R46, R140). -/
theorem renameOk_initial (hphys : c.numArch < c.numPhys) : RenameOk (State.initial c prog initReg m) := by
  refine ⟨?nodup, ?bound, ?free, ?entries, ?map, ?branches, none, by simp, ?zsrc, ?chain⟩
  case nodup => simp [List.nodup_range]
  case bound =>
    intro p hp
    rw [owned_initial, List.mem_range] at hp
    exact hp.trans hphys
  case free =>
    intro p hp
    rw [State.initial_free c prog initReg m hp]
    simp
  all_goals simp [replayMap, replayZsrc, renameChain]

theorem flowOk_initial : FlowOk (State.initial c prog initReg m) := by
  simp [FlowOk]

theorem lsqOk_initial : LsqOk (State.initial c prog initReg m) := by
  simp [LsqOk]

/-- The committed registers start valid (R46). -/
theorem validOk_initial (hphys : c.numArch < c.numPhys) : ValidOk (State.initial c prog initReg m) := by
  refine ⟨fun p hp => ?_, by simp⟩
  have hlt : p < c.numArch := List.mem_range.1 hp
  simp [prfReady, State.initial_prf c prog initReg m (hlt.trans hphys), hlt]

/-- The initial state of a legal machine with a legal program and a canonical memory satisfies the invariant (R46, R47). -/
theorem engineInv_initial {c : Params} {prog : List Instr} (initReg : List Word) {m : Memory} (hc : c.Legal prog.length)
    (hprog : ∀ i ∈ prog, i.wellFormed c.numArch = true) (hm : m.wf = true) (hbound : ∀ x ∈ m, x.1 < c.dataMemSize) :
    EngineInv (State.initial c prog initReg m) := by
  obtain ⟨hphys, -, hrob, hlsq, hbtb, -⟩ := id hc
  exact ⟨⟨hc, hprog⟩, shape_initial .., rings_initial _ _ _ _ hrob hlsq, ⟨hm, hbound⟩, btbOk_initial _ _ _ _ hbtb,
    renameOk_initial _ _ _ _ hphys, flowOk_initial .., lsqOk_initial .., validOk_initial _ _ _ _ hphys, by simp [BranchOk],
    by simp [DrOk]⟩

end

/-! ## `initialize` -/

section
variable {c : Params} {initReg : List Word} {initMem : List (Nat × Word)}

/-- `initialize` succeeds iff the program is accepted, and then builds the initial state of that program (R366). -/
theorem initializeFrom_eq_ok {p : Except Nat (List Instr)} {s : State} :
    initializeFrom c initReg initMem p = .ok s ↔ ∃ is, p = .ok is ∧
      s = State.initial c is initReg (Memory.ofList (initMem.filter fun x => decide (x.1 < c.dataMemSize))) := by
  cases p <;> simp [initializeFrom, eq_comm]

theorem initializeFrom_isOk {p : Except Nat (List Instr)} :
    (∃ s, initializeFrom c initReg initMem p = .ok s) ↔ ∃ is, p = .ok is := by
  simp [initializeFrom_eq_ok]

/-- An accepted program of legal instructions gives an engine that satisfies the invariant (R47, R366). -/
theorem engineInv_of_initializeFrom {p : Except Nat (List Instr)} {s : State}
    (h : initializeFrom c initReg initMem p = .ok s) (hc : c.Legal s.prog.length)
    (hprog : ∀ i ∈ s.prog, i.wellFormed c.numArch = true) : EngineInv s := by
  obtain ⟨is, -, rfl⟩ := initializeFrom_eq_ok.1 h
  refine engineInv_initial initReg hc hprog (Memory.ofList_wf _) (Memory.ofList_bound fun x hx => ?_)
  exact of_decide_eq_true (List.mem_filter.1 hx).2

/-- A packed program is read word by word (R111, R384). -/
theorem decodeProgram_of_initializeWords {ws : List Word} {s : State} (h : initializeWords c ws initReg initMem = .ok s) :
    decodeProgram c.numArch ws = .ok s.prog := by
  obtain ⟨is, his, rfl⟩ := initializeFrom_eq_ok.1 h
  exact his

/-- On sixteen registers only a reserved nibble makes `initialize` reject a packed program (R109, R384). -/
theorem initializeWords_isOk_of_sixteen (hn : c.numArch = 16) (ws : List Word) :
    (∃ s, initializeWords c ws initReg initMem = .ok s) ↔ ∀ w ∈ ws, field w 28 4 ≠ 0 := by
  rw [initializeWords, initializeFrom_isOk, decodeProgram, hn, collect_isOk]
  simp only [validate_unpack_eq_ok, decode_isOk]

end

end Sys2Proof.Machine

section
open Sys2Proof Sys2Proof.Machine

/-- Settles O9: the words are read one by one, and a decoded word is malformed only where `NUM_ARCH` is below sixteen. -/
theorem packedProgramBinds : Obligations.PackedProgramBinds := by
  intro c ws initReg initMem
  refine ⟨fun s hs => ?_, fun hn => initializeWords_isOk_of_sixteen hn ws⟩
  have hprog : decodeProgram c.numArch ws = .ok s.prog := decodeProgram_of_initializeWords hs
  have hlen : s.prog.length = ws.length := collect_length hprog
  refine ⟨hlen, fun k w hw => ?_, fun hc => ?_⟩
  · obtain ⟨i, hi, hvalid⟩ := collect_getElem? hprog hw
    exact ⟨i, hi, (StaticRecord.validate_eq_ok.1 hvalid).1⟩
  · refine engineInv_of_initializeFrom hs (hlen ▸ hc.1) fun i hi => ?_
    obtain ⟨w, -, hvalid⟩ := exists_mem_of_collect hprog hi
    exact (StaticRecord.validate_eq_ok.1 hvalid).2

end

/-! ## Dispatch in one record

SUPPORT. The entries a dispatch makes, and the whole state it leaves (R158 to R163). -/

namespace Sys2Proof.Machine

theorem hasDest_of_isBranch {o : Opcode} (h : isBranch o = true) : hasDest o = false := by
  cases o <;> simp_all [isBranch, hasDest]

theorem usesLsq_of_isBranch {o : Opcode} (h : isBranch o = true) : usesLsq o = false := by
  cases o <;> simp_all [isBranch, usesLsq]

/-- The ROB entry that the dispatch of `d` makes (R159, R162). -/
def newRob (d : DrLatch) (s : State) : RobEntry :=
  dispatchedEntry d (destReg d s) (destPrev d s) (predict d s).1 (predict d s).2

/-- The LSQ entry that the dispatch of a memory operation `d` makes (R160). -/
def newLsq (d : DrLatch) (s : State) : LsqEntry :=
  { isStore := isStoreOp d.opcode, rob := s.robTail, addrValid := false, addr := 0, value := 0, pd := destReg d s, done := false }

/-- The IQ entry that the dispatch of `d` makes (R161). -/
def newIq (d : DrLatch) (src : List SrcTag) (s : State) : IqEntry :=
  { opcode := d.opcode, src := src, pd := destReg d s, imm := d.imm, rob := s.robTail,
    lsq := if usesLsq d.opcode then some s.lsqTail else none }

theorem dispatchWith_eq (d : DrLatch) (src : List SrcTag) (s : State) : dispatchWith d src s = { s with
    pc := if isBranch d.opcode && (predict d s).1 then (predict d s).2 else s.pc
    dr := none
    prf := (destReg d s).elim s.prf fun p => s.prf.modify p PhysReg.invalidate
    free := (destReg d s).elim s.free fun p => s.free.set p false
    rat := (newRob d s).mapAfter s.rat
    zsrc := (newRob d s).zsrcAfter s.zsrc
    iq := insertIq (newIq d src s) s.iq
    rob := s.rob.set s.robTail (some (newRob d s))
    robTail := (s.robTail + 1) % s.cfg.robSize
    robCount := s.robCount + 1
    lsq := if usesLsq d.opcode then s.lsq.set s.lsqTail (some (newLsq d s)) else s.lsq
    lsqTail := if usesLsq d.opcode then (s.lsqTail + 1) % s.cfg.lsqSize else s.lsqTail
    lsqCount := if usesLsq d.opcode then s.lsqCount + 1 else s.lsqCount
    bis := if isBranch d.opcode then s.bis ++ [⟨s.rat, s.zsrc, s.robTail⟩] else s.bis
    lastStall := .none } := by
  cases hb : isBranch d.opcode with
  | true =>
    have hnone : destReg d s = none := by simp [destReg, hasDest_of_isBranch hb]
    have hmem := usesLsq_of_isBranch hb
    cases hp : (predict d s).1 <;>
      simp [dispatchWith, dispatchBranch, hb, hnone, hp, hmem, renameDest, allocLsq, newRob, newIq, dispatchedEntry, allocRob, allocIq,
        bisPush, ratSnapshot, clearDr, RobEntry.mapAfter, RobEntry.zsrcAfter]
  | false =>
    cases hp : destReg d s <;> cases hm : usesLsq d.opcode <;>
      simp [dispatchWith, dispatchBranch, hb, hp, hm, renameDest, allocLsq, newRob, newLsq, newIq, dispatchedEntry, allocRob, allocIq,
        clearDr, ratRename, allocAt, RobEntry.mapAfter, RobEntry.zsrcAfter]

/-! ## What every stage leaves alone

SUPPORT. The frame of the stages after commit, and of commit (R45, R320, R360, R364). -/

/-- What the stages after commit leave as it is: parameters, program, all that is committed, the prediction state, and the status
fields but `last_stall` (R364). -/
structure KeepsCommitted (s t : State) : Prop where
  cfg : t.cfg = s.cfg
  prog : t.prog = s.prog
  rrat : t.rrat = s.rrat
  dmem : t.dmem = s.dmem
  btb : t.btb = s.btb
  btbRr : t.btbRr = s.btbRr
  cycle : t.cycle = s.cycle
  committed : t.committed = s.committed
  halted : t.halted = s.halted
  error : t.error = s.error

theorem KeepsCommitted.refl (s : State) : KeepsCommitted s s := by constructor <;> rfl

theorem KeepsCommitted.trans {s t u : State} (h : KeepsCommitted s t) (h' : KeepsCommitted t u) : KeepsCommitted s u where
  cfg := h'.cfg.trans h.cfg
  prog := h'.prog.trans h.prog
  rrat := h'.rrat.trans h.rrat
  dmem := h'.dmem.trans h.dmem
  btb := h'.btb.trans h.btb
  btbRr := h'.btbRr.trans h.btbRr
  cycle := h'.cycle.trans h.cycle
  committed := h'.committed.trans h.committed
  halted := h'.halted.trans h.halted
  error := h'.error.trans h.error

theorem lsqLoadAccess_keepsCommitted {s t : State} (h : lsqLoadAccess s = .next t) : KeepsCommitted s t := by
  obtain ⟨-, rfl⟩ | ⟨l, q, p, e, -, -, -, -, -, rfl⟩ := lsqLoadAccess_eq_next h <;> constructor <;> rfl

theorem setUnit_keepsCommitted (c : UnitClass) (l : List (Option UnitLatch)) (s : State) : KeepsCommitted s (setUnit c l s) := by
  cases c <;> constructor <;> rfl

theorem aluLast_keepsCommitted {op : UnitLatch} {s t : State} (h : aluLast op s = .next t) : KeepsCommitted s t := by
  obtain ⟨e, -, ⟨rfl, -⟩ | ⟨v, p, -, -, -, rfl⟩⟩ := aluLast_eq_next h <;> constructor <;> rfl

theorem branchLast_keepsCommitted {op : UnitLatch} {s t : State} (h : branchLast op s = .next t) : KeepsCommitted s t := by
  obtain ⟨e, taken, target, -, -, rfl⟩ := branchLast_eq_next h
  constructor <;> rfl

theorem memRecord_keepsCommitted {op : UnitLatch} {s t : State} (h : memRecord op s = .next t) : KeepsCommitted s t := by
  obtain ⟨l, q, -, -, ⟨-, -, rfl⟩ | ⟨e, -, ⟨-, -, rfl⟩ | ⟨-, rfl⟩⟩⟩ := memRecord_eq_next h <;> constructor <;> rfl

/-- The memory unit's last stage computes an address and records it (R284). -/
theorem memLast_eq_next {op : UnitLatch} {s t : State} (h : memLast op s = .next t) :
    ∃ a, memAddress op = some a ∧ memRecord { op with addr := a } s = .next t := by
  unfold memLast at h
  split at h
  · exact ⟨_, ‹_›, h⟩
  · cases h

theorem lastStage_keepsCommitted {c : UnitClass} {op : UnitLatch} {s t : State} (h : lastStage c op s = .next t) :
    KeepsCommitted s t := by
  cases c with
  | mem =>
    obtain ⟨a, -, h⟩ := memLast_eq_next h
    exact memRecord_keepsCommitted h
  | br => exact branchLast_keepsCommitted h
  | mul => exact aluLast_keepsCommitted h
  | int => exact aluLast_keepsCommitted h

theorem evalUnit_keepsCommitted {c : UnitClass} {s t : State} (h : evalUnit c s = .next t) : KeepsCommitted s t := by
  obtain ⟨-, rfl⟩ | ⟨op, u, -, hu, rfl⟩ := evalUnit_eq_next h
  · exact setUnit_keepsCommitted _ _ _
  · exact (lastStage_keepsCommitted hu).trans (setUnit_keepsCommitted _ _ _)

theorem issueClass_keepsCommitted {c : UnitClass} {s t : State} (h : issueClass c s = .next t) : KeepsCommitted s t := by
  obtain ⟨rfl, -⟩ | ⟨q, e, vs, -, -, -, rfl⟩ := issueClass_eq_next h
  · exact .refl _
  · exact .trans (by constructor <;> rfl) (setUnit_keepsCommitted _ _ _)

theorem dispatch_keepsCommitted {s t : State} (h : dispatch s = .next t) : KeepsCommitted s t := by
  obtain ⟨-, rfl⟩ | ⟨d, -, ⟨-, rfl⟩ | ⟨src, -, -, rfl⟩⟩ := dispatch_eq_next h
  · constructor <;> rfl
  · constructor <;> rfl
  · rw [dispatchWith_eq]
    constructor <;> rfl

theorem fetch_keepsCommitted {s t : State} (h : fetch s = .next t) : KeepsCommitted s t := by
  obtain ⟨-, rfl⟩ | ⟨-, rfl, -⟩ | ⟨i, -, -, -, -, rfl⟩ := fetch_eq_next h <;> constructor <;> rfl

/-- A property that every stage after commit keeps is kept by all of them, run in the order of the tick (R360). -/
theorem stages_keep {P : State → Prop} (hload : ∀ {s t}, P s → lsqLoadAccess s = .next t → P t)
    (hunit : ∀ {c s t}, P s → evalUnit c s = .next t → P t) (hissue : ∀ {c s t}, P s → issueClass c s = .next t → P t)
    (hdispatch : ∀ {s t}, P s → dispatch s = .next t → P t) (hfetch : ∀ {s t}, P s → fetch s = .next t → P t)
    {s t u : State} (hs : P s) (hb : beforeFetch s = .next t) (hf : fetch t = .next u) : P u := by
  obtain ⟨a, b, c, d, e, i₁, i₂, i₃, i₄, ha, hmem, hbr, hmul, hint, h₁, h₂, h₃, h₄, hd⟩ := beforeFetch_eq_next.1 hb
  have hunits : P e := hunit (hunit (hunit (hunit (hload hs ha) hmem) hbr) hmul) hint
  have hissued : P i₄ := hissue (hissue (hissue (hissue hunits h₁) h₂) h₃) h₄
  exact hfetch (hdispatch hissued hd) hf

theorem stages_keepCommitted {s t u : State} (hb : beforeFetch s = .next t) (hf : fetch t = .next u) : KeepsCommitted s u :=
  stages_keep (P := KeepsCommitted s) (fun h k => h.trans (lsqLoadAccess_keepsCommitted k))
    (fun h k => h.trans (evalUnit_keepsCommitted k)) (fun h k => h.trans (issueClass_keepsCommitted k))
    (fun h k => h.trans (dispatch_keepsCommitted k)) (fun h k => h.trans (fetch_keepsCommitted k)) (.refl s) hb hf

/-! ### Commit -/

theorem commitMem_frame {e : RobEntry} {s t : State} (h : commitMem e s = .next t) :
    ∃ m l k n, t = { s with dmem := m, lsq := l, lsqHead := k, lsqCount := n } := by
  obtain ⟨-, rfl⟩ | ⟨q, -, -, ⟨-, rfl⟩ | ⟨-, -, rfl⟩⟩ := commitMem_eq_next h <;> exact ⟨_, _, _, _, rfl⟩

theorem commitBranch_frame (e : RobEntry) (s : State) :
    ∃ b rr n l, commitBranch e s = { s with btb := b, btbRr := rr, victimDraws := n, bis := l } := by
  unfold commitBranch
  split
  · obtain ⟨j, old, rr, n, hb⟩ := btbUpdate_frame e.pc e.actTaken e.actTarget s
    exact ⟨_, _, _, _, by rw [hb]; rfl⟩
  · exact ⟨_, _, _, _, rfl⟩

/-- What commit leaves as it is: parameters, program, the tick count, and every physical register (R24, R45). -/
structure CommitKeeps (s t : State) : Prop where
  cfg : t.cfg = s.cfg
  prog : t.prog = s.prog
  cycle : t.cycle = s.cycle
  prf : t.prf = s.prf

/-- A retirement counts one instruction and maps its destination, if it has one, in the retirement map (R323, R326). -/
theorem retire_effect {e : RobEntry} {s t : State} (h : retire e s = .next t) :
    CommitKeeps s t ∧ t.committed = s.committed + 1 ∧
      ((hasDest e.opcode = false ∧ t.rrat = s.rrat) ∨
        ∃ pd, hasDest e.opcode = true ∧ e.pd = some pd ∧ t.rrat = s.rrat.set e.rd pd) := by
  obtain ⟨a, b, ha, hb, hend⟩ := retire_eq_next h
  obtain ⟨m, l, k, n, rfl⟩ := commitMem_frame hb
  obtain ⟨hkeep, hcom, hrrat⟩ : CommitKeeps a t ∧ t.committed = a.committed + 1 ∧ t.rrat = a.rrat := by
    obtain ⟨b, rr, n, l, hbr⟩ := commitBranch_frame e { a with dmem := m, lsq := l, lsqHead := k, lsqCount := n }
    obtain ⟨-, rfl⟩ | ⟨ck, -, -, ⟨-, rfl⟩ | ⟨-, hfl⟩⟩ := hend
    · exact ⟨⟨rfl, rfl, rfl, rfl⟩, rfl, rfl⟩
    · rw [hbr]
      exact ⟨⟨rfl, rfl, rfl, rfl⟩, rfl, rfl⟩
    · rw [flush_eq_next hfl, hbr]
      exact ⟨⟨rfl, rfl, rfl, rfl⟩, rfl, rfl⟩
  obtain ⟨hd, rfl⟩ | ⟨pd, prev, hd, hpd, -, -, -, rfl⟩ := commitDest_eq_next ha
  · exact ⟨hkeep, hcom, .inl ⟨hd, hrrat⟩⟩
  · exact ⟨⟨hkeep.cfg, hkeep.prog, hkeep.cycle, hkeep.prf⟩, hcom, .inr ⟨pd, hd, hpd, hrrat⟩⟩

theorem commit_keeps {s t : State} (h : commit s = .next t) : CommitKeeps s t := by
  obtain ⟨rfl, -⟩ | ⟨e, -, -, -, ⟨-, rfl⟩ | ⟨-, hr⟩⟩ := commit_eq_next h
  · exact ⟨rfl, rfl, rfl, rfl⟩
  · exact ⟨rfl, rfl, rfl, rfl⟩
  · exact (retire_effect hr).1

/-- At most one instruction commits (R320). -/
theorem commit_committed {s t : State} (h : commit s = .next t) : t.committed = s.committed ∨ t.committed = s.committed + 1 := by
  obtain ⟨rfl, -⟩ | ⟨e, -, -, -, ⟨-, rfl⟩ | ⟨-, hr⟩⟩ := commit_eq_next h
  · exact .inl rfl
  · exact .inl rfl
  · obtain ⟨-, hcommitted, -⟩ := retire_effect hr
    exact .inr hcommitted

/-- An engine that is not done runs commit, then, unless that raised the error, the other stages, and counts the cycle; the other
stages keep all that is committed (R360). -/
theorem tick_keepsCommitted {s t : State} (h : tick s = .next t) (hd : done s = false) :
    ∃ a b, commit s = .next a ∧ KeepsCommitted a b ∧ t = bumpCycle b := by
  obtain ⟨hdone, -⟩ | ⟨a, -, hc, ⟨-, rfl⟩ | ⟨b, c, -, hb, hf, rfl⟩⟩ := tick_eq_next h
  · simp [hd] at hdone
  · exact ⟨a, a, hc, .refl a, rfl⟩
  · exact ⟨a, c, hc, stages_keepCommitted hb hf, rfl⟩

theorem halted_and_error_of_not_done {s : State} (h : done s = false) : s.halted = false ∧ s.error = none := by
  simp only [done, Bool.or_eq_false_iff, Option.isSome_eq_false_iff, Option.isNone_iff_eq_none] at h
  obtain ⟨⟨⟨hhalted, herror⟩, -⟩, -⟩ := h
  exact ⟨hhalted, herror⟩

end Sys2Proof.Machine

section
open Sys2Proof Sys2Proof.Machine

/-- Settles O49: on an engine that is not done only commit moves `committed`, and only the count at the end moves `cycle`. -/
theorem stepStatusFields : Obligations.StepStatusFields := by
  intro s t h
  cases hd : done s with
  | true =>
    obtain rfl : s = t := by simpa [step, tick, hd] using h
    simp
  | false =>
    obtain ⟨a, b, hc, hab, rfl⟩ := tick_keepsCommitted h hd
    obtain ⟨hhalt, herr⟩ := halted_and_error_of_not_done hd
    have hsa := commit_keeps hc
    have hcom := commit_committed hc
    simp [hab.cfg, hab.prog, hab.cycle, hab.committed, hsa.cfg, hsa.prog, hsa.cycle, hcom, hhalt, herr]

end

/-! ## Sizes

SUPPORT. Every stage keeps the sizes of tables, queues, units and checkpoints, from every state that has them (R24 to R40). -/

namespace Sys2Proof.Machine

theorem setUnit_shape {c : UnitClass} {l : List (Option UnitLatch)} {s : State} (hs : Shape s)
    (hl : l.length = (unitStages c s).length) : Shape (setUnit c l s) := by
  cases c <;> simp_all [Shape, setUnit, unitStages]

theorem lsqLoadAccess_shape {s t : State} (hs : Shape s) (h : lsqLoadAccess s = .next t) : Shape t := by
  obtain ⟨-, rfl⟩ | ⟨l, q, p, e, -, -, -, -, -, rfl⟩ := lsqLoadAccess_eq_next h
  · exact hs
  · simpa [Shape] using hs

theorem lastStage_shape {c : UnitClass} {op : UnitLatch} {s t : State} (hs : Shape s) (h : lastStage c op s = .next t) :
    Shape t := by
  have halu : aluLast op s = .next t → Shape t := fun h => by
    obtain ⟨e, -, ⟨rfl, -⟩ | ⟨v, p, -, -, -, rfl⟩⟩ := aluLast_eq_next h <;> simpa [Shape] using hs
  cases c with
  | mem =>
    obtain ⟨a, -, h⟩ := memLast_eq_next h
    obtain ⟨l, q, -, -, ⟨-, -, rfl⟩ | ⟨e, -, ⟨-, -, rfl⟩ | ⟨-, rfl⟩⟩⟩ := memRecord_eq_next h <;> simpa [Shape] using hs
  | br =>
    obtain ⟨e, taken, target, -, -, rfl⟩ := branchLast_eq_next h
    simpa [Shape] using hs
  | mul => exact halu h
  | int => exact halu h

theorem evalUnit_shape {c : UnitClass} {s t : State} (hs : Shape s) (h : evalUnit c s = .next t) : Shape t := by
  obtain ⟨-, rfl⟩ | ⟨op, u, -, hu, rfl⟩ := evalUnit_eq_next h
  · exact setUnit_shape hs (advance_length _)
  · exact setUnit_shape (lastStage_shape hs hu) (advance_length _)

theorem issueClass_shape {c : UnitClass} {s t : State} (hs : Shape s) (h : issueClass c s = .next t) : Shape t := by
  obtain ⟨rfl, -⟩ | ⟨q, e, vs, -, -, -, rfl⟩ := issueClass_eq_next h
  · exact hs
  · refine setUnit_shape (by simpa [Shape] using hs) ?_
    cases c <;> exact List.length_set

@[simp] theorem insertIq_length (e : IqEntry) (l : List (Option IqEntry)) : (insertIq e l).length = l.length := by
  induction l with
  | nil => rfl
  | cons x l ih => cases x <;> simp [insertIq, ih]

@[simp] theorem RobEntry.mapAfter_length (e : RobEntry) (m : List Nat) : (e.mapAfter m).length = m.length := by
  cases h : e.pd <;> simp [mapAfter, h]

/-- What the availability check grants an opcode it does not stall (R155). -/
theorem stallReason_eq_none {o : Opcode} {s : State} (h : stallReason o s = .none) :
    (hasDest o = true → ∃ p, pickFree s = some p) ∧ s.robCount ≠ s.cfg.robSize ∧ iqFull s = false ∧
      (usesLsq o = true → s.lsqCount ≠ s.cfg.lsqSize) ∧ (isBranch o = true → s.bis.length ≠ s.cfg.bisSize) := by
  unfold stallReason at h
  split at h
  · cases h
  · rename_i hpick
    split at h
    · cases h
    · rename_i hfull
      simp only [Bool.or_eq_true, not_or, Bool.and_eq_true, not_and, robFull, lsqFull, bisFull, decide_eq_true_eq,
        Bool.not_eq_true] at hfull
      obtain ⟨⟨⟨hrob, hiq⟩, hlsq⟩, hbis⟩ := hfull
      refine ⟨fun hd => Option.ne_none_iff_exists'.1 fun hn => hpick ?_, hrob, hiq, hlsq, hbis⟩
      simp [hd, hn]

theorem dispatchWith_shape {d : DrLatch} (src : List SrcTag) {s : State} (hs : Shape s) (hr : stallReason d.opcode s = .none) :
    Shape (dispatchWith d src s) := by
  obtain ⟨-, -, -, -, hroom⟩ := stallReason_eq_none hr
  obtain ⟨hprf, hfree, hrat, hrrat, hiq, hint, hmul, hbru, hmem, hrob, hlsq, hbtb, hbis, hck⟩ := hs
  rw [dispatchWith_eq]
  refine ⟨?prf, ?free, by simpa using hrat, hrrat, by simpa using hiq, hint, hmul, hbru, hmem, by simpa using hrob, ?lsq, hbtb,
    ?bis, ?ck⟩
  case prf => cases destReg d s <;> simpa using hprf
  case free => cases destReg d s <;> simpa using hfree
  case lsq => cases usesLsq d.opcode <;> simpa using hlsq
  case bis =>
    cases hb : isBranch d.opcode with
    | false => simpa [hb] using hbis
    | true =>
      have := hroom hb
      simp only [if_true, List.length_append, List.length_singleton]
      omega
  case ck =>
    cases isBranch d.opcode with
    | false => exact hck
    | true =>
      intro ck hmem
      obtain hmem | hmem := List.mem_append.1 hmem
      · exact hck ck hmem
      · obtain rfl := List.mem_singleton.1 hmem
        exact hrat

theorem dispatch_shape {s t : State} (hs : Shape s) (h : dispatch s = .next t) : Shape t := by
  obtain ⟨-, rfl⟩ | ⟨d, -, ⟨-, rfl⟩ | ⟨src, hr, -, rfl⟩⟩ := dispatch_eq_next h
  · exact hs
  · exact hs
  · exact dispatchWith_shape src hs hr

theorem fetch_shape {s t : State} (hs : Shape s) (h : fetch s = .next t) : Shape t := by
  obtain ⟨-, rfl⟩ | ⟨-, rfl, -⟩ | ⟨i, -, -, -, -, rfl⟩ := fetch_eq_next h <;> exact hs

/-! ### Commit -/

theorem commitDest_shape {e : RobEntry} {s t : State} (hs : Shape s) (h : commitDest e s = .next t) : Shape t := by
  obtain ⟨-, rfl⟩ | ⟨pd, prev, -, -, -, -, -, rfl⟩ := commitDest_eq_next h
  · exact hs
  · simpa [Shape] using hs

theorem commitMem_shape {e : RobEntry} {s t : State} (hs : Shape s) (h : commitMem e s = .next t) : Shape t := by
  obtain ⟨-, rfl⟩ | ⟨q, -, -, ⟨-, rfl⟩ | ⟨-, -, rfl⟩⟩ := commitMem_eq_next h
  · exact hs
  · simpa [Shape, lsqRelease] using hs
  · simpa [Shape, lsqRelease] using hs

theorem bisPop_shape {s : State} (hs : Shape s) : Shape (bisPop s) := by
  obtain ⟨hprf, hfree, hrat, hrrat, hiq, hint, hmul, hbru, hmem, hrob, hlsq, hbtb, hbis, hck⟩ := hs
  refine ⟨hprf, hfree, hrat, hrrat, hiq, hint, hmul, hbru, hmem, hrob, hlsq, hbtb, ?_, fun ck h => hck ck (List.mem_of_mem_tail h)⟩
  exact (List.length_tail (l := s.bis) ▸ Nat.sub_le _ _).trans hbis

theorem commitBranch_shape {e : RobEntry} {s : State} (hs : Shape s) : Shape (commitBranch e s) := by
  unfold commitBranch
  split
  · obtain ⟨j, old, rr, n, hb⟩ := btbUpdate_frame e.pc e.actTaken e.actTarget s
    rw [hb]
    exact bisPop_shape (by simpa [Shape] using hs)
  · exact hs

theorem commitHead_shape {e : RobEntry} {s : State} (hs : Shape s) : Shape (commitHead e s) := by
  simpa [Shape, commitHead] using hs

theorem foldl_set_length (ps : List Nat) (l : List Bool) : (ps.foldl (fun l p => l.set p true) l).length = l.length := by
  induction ps generalizing l with
  | nil => rfl
  | cons p ps ih => exact (ih _).trans List.length_set

theorem flush_shape {ck : Checkpoint} {n : Word} {s t : State} (hs : Shape s) (hck : ck.rat.length = s.cfg.numArch)
    (h : flush ck n s = .next t) : Shape t := by
  obtain ⟨hprf, hfree, hrat, hrrat, hiq, hint, hmul, hbru, hmem, hrob, hlsq, hbtb, hbis, -⟩ := hs
  rw [flush_eq_next h]
  simp [Shape, flushState, bisClear, ratRestore, emptied, foldl_set_length, *]

/-- The checkpoint a commit takes is the bottom one and names the head (R259). -/
theorem bisOldest_eq_some {r : Nat} {s : State} {ck : Checkpoint} (h : bisOldest r s = some ck) :
    ∃ l, s.bis = ck :: l ∧ ck.rob = r := by
  unfold bisOldest at h
  split at h
  · rename_i x l hx
    split at h
    · rename_i hr
      obtain rfl := Option.some.inj h
      exact ⟨l, hx, hr⟩
    · cases h
  · cases h

theorem retire_shape {e : RobEntry} {s t : State} (hs : Shape s) (h : retire e s = .next t) : Shape t := by
  obtain ⟨a, b, ha, hb, hend⟩ := retire_eq_next h
  have hbs : Shape b := commitMem_shape (commitDest_shape hs ha) hb
  have hc : Shape (commitHead e (commitBranch e b)) := commitHead_shape (commitBranch_shape hbs)
  obtain ⟨-, rfl⟩ | ⟨ck, -, hck, ⟨-, rfl⟩ | ⟨-, hf⟩⟩ := hend
  · exact commitHead_shape hbs
  · exact hc
  · obtain ⟨l, hl, -⟩ := bisOldest_eq_some hck
    obtain ⟨_, _, _, _, hframe⟩ := commitBranch_frame e b
    obtain ⟨-, -, -, -, -, -, -, -, -, -, -, -, -, hrats⟩ := hbs
    refine flush_shape hc ?_ hf
    rw [hframe]
    exact hrats ck (hl ▸ List.mem_cons_self)

theorem commit_shape {s t : State} (hs : Shape s) (h : commit s = .next t) : Shape t := by
  obtain ⟨rfl, -⟩ | ⟨e, -, -, -, ⟨-, rfl⟩ | ⟨-, hr⟩⟩ := commit_eq_next h
  · exact hs
  · exact hs
  · exact retire_shape hs hr

/-- A property that commit, every other stage and the tick count keep is kept by a step (R360). -/
theorem step_keeps {P : State → Prop} (hcommit : ∀ {s t}, P s → commit s = .next t → P t)
    (hload : ∀ {s t}, P s → lsqLoadAccess s = .next t → P t) (hunit : ∀ {c s t}, P s → evalUnit c s = .next t → P t)
    (hissue : ∀ {c s t}, P s → issueClass c s = .next t → P t) (hdispatch : ∀ {s t}, P s → dispatch s = .next t → P t)
    (hfetch : ∀ {s t}, P s → fetch s = .next t → P t) (hcount : ∀ {s}, P s → P (bumpCycle s)) {s t : State} (hs : P s)
    (h : step s = .next t) : P t := by
  obtain ⟨-, rfl⟩ | ⟨a, -, hc, ⟨-, rfl⟩ | ⟨b, c, -, hb, hf, rfl⟩⟩ := tick_eq_next h
  · exact hs
  · exact hcount (hcommit hs hc)
  · exact hcount (stages_keep hload hunit hissue hdispatch hfetch (hcommit hs hc) hb hf)

end Sys2Proof.Machine

section
open Sys2Proof Sys2Proof.Machine

/-- Settles O53, stage by stage; the one size that could grow is the branch stack's, and a full stack stalls the branch (R155). -/
theorem stepKeepsShape : Obligations.StepKeepsShape := fun _ _ hs h =>
  step_keeps commit_shape lsqLoadAccess_shape evalUnit_shape issueClass_shape dispatch_shape fetch_shape id hs h

end

/-! ## Circular queues

SUPPORT. The ROB and the LSQ are one structure, a circular queue (R36, R38): its entries in order, and what replacing, appending
and removing an entry does to them. -/

namespace Sys2Proof.Machine

section
variable {α : Type}

/-- What slot `i` of a queue holds. -/
def ringAt (l : List (Option α)) (i : Nat) : Option α := (l[i]?).join

/-- The entries of a circular queue of `n` slots with head `h` and `c` entries, oldest first, with their slots. -/
def ringEntries (l : List (Option α)) (n h c : Nat) : List (Nat × α) :=
  (List.range c).filterMap fun k => (ringAt l ((h + k) % n)).map (Prod.mk ((h + k) % n))

/-- A circular queue of `n` slots: the occupied slots are those of position below `c`, counted from the head `h` (R36). -/
structure RingOk (l : List (Option α)) (n h c : Nat) : Prop where
  length : l.length = n
  head : h < n
  count : c ≤ n
  occupied : ∀ k < n, (ringAt l ((h + k) % n)).isSome = decide (k < c)

/-! ### Slots and positions -/

section
variable {n h k j : Nat}

theorem slot_injective (hk : k < n) (hj : j < n) (heq : (h + k) % n = (h + j) % n) : k = j :=
  Nat.ModEq.eq_of_lt_of_lt (Nat.ModEq.add_left_cancel' h heq) hk hj

theorem slot_of_age {i : Nat} (hi : i < n) (hh : h < n) : (h + (i + n - h) % n) % n = i := by
  rw [Nat.add_mod_mod, show h + (i + n - h) = i + n by omega, Nat.add_mod_right, Nat.mod_eq_of_lt hi]

/-- The age of the slot at position `k` is `k` (R36). -/
theorem age_of_slot (hk : k < n) (hh : h < n) : ((h + k) % n + n - h) % n = k :=
  have hn : 0 < n := by omega
  slot_injective (Nat.mod_lt _ hn) hk (slot_of_age (Nat.mod_lt _ hn) hh)

theorem slot_succ : ((h + 1) % n + k) % n = (h + (k + 1)) % n := by
  rw [Nat.mod_add_mod, Nat.add_assoc, Nat.add_comm 1 k]

theorem slot_ne_head (hk : k + 1 < n) (hh : h < n) : (h + (k + 1)) % n ≠ h := fun heq =>
  have h0 : (h + (k + 1)) % n = (h + 0) % n := heq.trans (Nat.mod_eq_of_lt hh).symm
  absurd (slot_injective hk (by omega) h0) (by omega)

end

/-! ### What a slot holds after a replacement -/

variable {l : List (Option α)} {n h c i : Nat} {a b : α}

theorem ringAt_lt (ha : ringAt l i = some a) : i < l.length := by
  by_contra hi
  simp [ringAt, List.getElem?_eq_none (not_lt.1 hi)] at ha

theorem ringAt_set_self {x : Option α} (hi : i < l.length) : ringAt (l.set i x) i = x := by
  simp [ringAt, hi]

theorem ringAt_set_ne {x : Option α} {j : Nat} (hij : i ≠ j) : ringAt (l.set i x) j = ringAt l j := by
  simp [ringAt, List.getElem?_set_ne hij]

theorem ringAt_emptied (j : Nat) : ringAt (emptied l) j = none := by
  simp only [ringAt, emptied, List.getElem?_replicate]
  split <;> rfl

/-! ### The entries -/

theorem mem_ringEntries (ok : RingOk l n h c) {x : Nat × α} : x ∈ ringEntries l n h c ↔ ringAt l x.1 = some x.2 := by
  simp only [ringEntries, List.mem_filterMap, List.mem_range, Option.map_eq_some_iff]
  constructor
  · rintro ⟨k, -, a, ha, rfl⟩
    exact ha
  · intro hx
    have hlt : x.1 < n := ok.length ▸ ringAt_lt hx
    have hslot := slot_of_age hlt ok.head
    have hn : 0 < n := by omega
    refine ⟨_, ?_, x.2, hslot.symm ▸ hx, by rw [hslot]⟩
    have hocc := ok.occupied _ (Nat.mod_lt (x.1 + n - h) hn)
    rw [hslot, hx] at hocc
    exact of_decide_eq_true hocc.symm

theorem ringEntries_map_fst (ok : RingOk l n h c) :
    (ringEntries l n h c).map Prod.fst = (List.range c).map fun k => (h + k) % n := by
  rw [ringEntries, List.map_filterMap, ← List.filterMap_eq_map]
  refine List.filterMap_congr fun k hk => ?_
  have hk : k < c := List.mem_range.1 hk
  have hsome := ok.occupied k (hk.trans_le ok.count)
  rw [decide_eq_true hk, Option.isSome_iff_exists] at hsome
  obtain ⟨a, ha⟩ := hsome
  simp [ha]

theorem ringEntries_nodup (ok : RingOk l n h c) : ((ringEntries l n h c).map Prod.fst).Nodup := by
  rw [ringEntries_map_fst ok]
  refine List.Nodup.map_on (fun k hk j hj heq => ?_) List.nodup_range
  have hc := ok.count
  rw [List.mem_range] at hk hj
  exact slot_injective (by omega) (by omega) heq

/-- The entry at position `k` stands in slot `(h + k) mod n`. -/
theorem ringEntries_position (ok : RingOk l n h c) {xs ys : List (Nat × α)} {x : Nat × α}
    (hx : ringEntries l n h c = xs ++ x :: ys) : xs.length < c ∧ x.1 = (h + xs.length) % n := by
  have hfst := ringEntries_map_fst ok
  rw [hx] at hfst
  have hlen : xs.length < c := by
    have := congrArg List.length hfst
    simp only [List.length_map, List.length_append, List.length_cons, List.length_range] at this
    omega
  have hget := congrArg (fun l => l[xs.length]?) hfst
  exact ⟨hlen, by simpa [hlen] using hget⟩

/-- A numbered entry, with `b` for what slot `i` holds. -/
def replaceSlot (i : Nat) (b : α) (x : Nat × α) : Nat × α := if x.1 = i then (i, b) else x

theorem map_replaceSlot_of_not_mem {xs : List (Nat × α)} (b : α) (h : i ∉ xs.map Prod.fst) : xs.map (replaceSlot i b) = xs := by
  refine (List.map_congr_left fun x hx => if_neg ?_).trans xs.map_id
  exact fun hxi => h (List.mem_map.2 ⟨x, hx, hxi⟩)

theorem ringEntries_set_eq_map (ha : ringAt l i = some a) (b : α) :
    ringEntries (l.set i (some b)) n h c = (ringEntries l n h c).map (replaceSlot i b) := by
  rw [ringEntries, ringEntries, List.map_filterMap]
  refine List.filterMap_congr fun k _ => ?_
  by_cases hk : (h + k) % n = i
  · rw [hk, ringAt_set_self (ringAt_lt ha), ha]
    simp [replaceSlot]
  · rw [ringAt_set_ne (Ne.symm hk)]
    cases ringAt l ((h + k) % n) <;> simp [replaceSlot, hk]

/-- Replacing the entry of a slot replaces it in the sequence and nothing else. -/
theorem ringEntries_set (ok : RingOk l n h c) (ha : ringAt l i = some a) (b : α) :
    ∃ xs ys, ringEntries l n h c = xs ++ (i, a) :: ys ∧ ringEntries (l.set i (some b)) n h c = xs ++ (i, b) :: ys := by
  obtain ⟨xs, ys, hsplit⟩ := List.append_of_mem ((mem_ringEntries ok (x := (i, a))).2 ha)
  refine ⟨xs, ys, hsplit, ?_⟩
  have hnodup := ringEntries_nodup ok
  rw [hsplit, List.map_append, List.map_cons, List.nodup_middle, List.nodup_cons, List.mem_append, not_or] at hnodup
  obtain ⟨⟨hxs, hys⟩, -⟩ := hnodup
  rw [ringEntries_set_eq_map ha, hsplit, List.map_append, List.map_cons, map_replaceSlot_of_not_mem b hxs,
    map_replaceSlot_of_not_mem b hys]
  simp [replaceSlot]

theorem RingOk.set (ok : RingOk l n h c) (ha : ringAt l i = some a) (b : α) : RingOk (l.set i (some b)) n h c where
  length := List.length_set.trans ok.length
  head := ok.head
  count := ok.count
  occupied k hk := by
    rw [← ok.occupied k hk]
    by_cases hi : i = (h + k) % n
    · rw [← hi, ringAt_set_self (ringAt_lt ha), ha]
      rfl
    · rw [ringAt_set_ne hi]

/-! ### Appending at the tail -/

theorem RingOk.tail_lt (ok : RingOk l n h c) (hc : c < n) : (h + c) % n < l.length := by
  rw [ok.length]
  exact Nat.mod_lt _ (by omega)

theorem RingOk.tail_free (ok : RingOk l n h c) (hc : c < n) : ringAt l ((h + c) % n) = none := by
  simpa using ok.occupied c hc

theorem ringEntries_push (ok : RingOk l n h c) (hc : c < n) (b : α) :
    ringEntries (l.set ((h + c) % n) (some b)) n h (c + 1) = ringEntries l n h c ++ [((h + c) % n, b)] := by
  have hnew : ringAt (l.set ((h + c) % n) (some b)) ((h + c) % n) = some b := ringAt_set_self (ok.tail_lt hc)
  rw [ringEntries, List.range_succ, List.filterMap_append, List.filterMap_cons_some (b := ((h + c) % n, b)) (by simp [hnew]),
    List.filterMap_nil, ringEntries]
  congr 1
  refine List.filterMap_congr fun k hk => ?_
  rw [List.mem_range] at hk
  rw [ringAt_set_ne fun heq => absurd (slot_injective hc (by omega) heq) (by omega)]

theorem RingOk.push (ok : RingOk l n h c) (hc : c < n) (b : α) : RingOk (l.set ((h + c) % n) (some b)) n h (c + 1) where
  length := List.length_set.trans ok.length
  head := ok.head
  count := hc
  occupied k hk := by
    by_cases heq : k = c
    · subst heq
      rw [ringAt_set_self (ok.tail_lt hc)]
      simp
    · rw [ringAt_set_ne fun hslot => heq (slot_injective hc hk hslot).symm, ok.occupied k hk]
      simp only [decide_eq_decide]
      omega

/-! ### Removing the head -/

theorem RingOk.head_occupied (ok : RingOk l n h c) : (ringAt l h).isSome = decide (0 < c) := by
  have := ok.occupied 0 (by have := ok.head; omega)
  rwa [Nat.add_zero, Nat.mod_eq_of_lt ok.head] at this

theorem ringEntries_pop (ok : RingOk l n h c) (ha : ringAt l h = some a) :
    ringEntries l n h c = (h, a) :: ringEntries (l.set h none) n ((h + 1) % n) (c - 1) := by
  obtain ⟨c, rfl⟩ : ∃ d, c = d + 1 := ⟨c - 1, by
    have := ok.head_occupied
    simp [ha] at this
    omega⟩
  rw [ringEntries, List.range_succ_eq_map, List.filterMap_cons_some (b := (h, a)) (by simp [Nat.mod_eq_of_lt ok.head, ha]),
    List.filterMap_map, ringEntries]
  congr 1
  refine List.filterMap_congr fun k hk => ?_
  have hkc : k < c := List.mem_range.1 hk
  have hcn : c + 1 ≤ n := ok.count
  simp only [Function.comp_apply, slot_succ]
  rw [ringAt_set_ne (slot_ne_head (by omega) ok.head).symm]

theorem RingOk.pop (ok : RingOk l n h c) (ha : ringAt l h = some a) : RingOk (l.set h none) n ((h + 1) % n) (c - 1) where
  length := List.length_set.trans ok.length
  head := Nat.mod_lt _ (by have := ok.head; omega)
  count := (Nat.sub_le _ _).trans ok.count
  occupied k hk := by
    rw [slot_succ]
    obtain hlt | heq : k + 1 < n ∨ k + 1 = n := by omega
    · rw [ringAt_set_ne (slot_ne_head hlt ok.head).symm, ok.occupied _ hlt]
      simp only [decide_eq_decide]
      omega
    · have hc := ok.count
      rw [heq, Nat.add_mod_right, Nat.mod_eq_of_lt ok.head, ringAt_set_self (ringAt_lt ha)]
      simp
      omega

/-! ### The empty queue -/

theorem RingOk.emptied (ok : RingOk l n h c) : RingOk (emptied l) n h 0 where
  length := by simp [Machine.emptied, ok.length]
  head := ok.head
  count := Nat.zero_le _
  occupied k _ := by simp [ringAt_emptied]

end

end Sys2Proof.Machine

/-! ## The invariant through its views

SUPPORT. The clauses of the invariant in the form the stages' proofs use: the queues as circular queues, the order-dependent clauses
under a change that keeps the instructions, and the operations in flight one by one (R36, R38, R47). -/

namespace Sys2Proof.Machine

/-! ### ROB and LSQ as circular queues -/

/-- The ROB and the LSQ are circular queues and their tails follow their last entries (R36, R38). -/
structure QueuesOk (s : State) : Prop where
  rob : RingOk s.rob s.cfg.robSize s.robHead s.robCount
  robTail : s.robTail = (s.robHead + s.robCount) % s.cfg.robSize
  lsq : RingOk s.lsq s.cfg.lsqSize s.lsqHead s.lsqCount
  lsqTail : s.lsqTail = (s.lsqHead + s.lsqCount) % s.cfg.lsqSize

theorem QueuesOk.rings {s : State} (h : QueuesOk s) : Rings s :=
  ⟨h.rob.head, h.rob.count, h.robTail, h.rob.occupied, h.lsq.head, h.lsq.count, h.lsqTail, h.lsq.occupied⟩

theorem queuesOk_of_rings {s : State} (hs : Shape s) (h : Rings s) : QueuesOk s := by
  obtain ⟨-, -, -, -, -, -, -, -, -, hrob, hlsq, -⟩ := hs
  obtain ⟨hhead, hcount, htail, hocc, hlhead, hlcount, hltail, hlocc⟩ := h
  exact ⟨⟨hrob, hhead, hcount, hocc⟩, htail, ⟨hlsq, hlhead, hlcount, hlocc⟩, hltail⟩

theorem robInOrder_eq (s : State) : robInOrder s = ringEntries s.rob s.cfg.robSize s.robHead s.robCount := rfl

theorem lsqInOrder_eq (s : State) : lsqInOrder s = ringEntries s.lsq s.cfg.lsqSize s.lsqHead s.lsqCount := rfl

theorem mem_robInOrder {s : State} (h : QueuesOk s) {x : Nat × RobEntry} : x ∈ robInOrder s ↔ robAt s x.1 = some x.2 :=
  mem_ringEntries h.rob

theorem mem_lsqInOrder {s : State} (h : QueuesOk s) {x : Nat × LsqEntry} : x ∈ lsqInOrder s ↔ lsqAt s x.1 = some x.2 :=
  mem_ringEntries h.lsq

/-- The map an instruction was renamed under is the replay of the entries before its own. -/
theorem mapBefore_of_append {s : State} (h : QueuesOk s) {xs ys : List (Nat × RobEntry)} {x : Nat × RobEntry}
    (hx : robInOrder s = xs ++ x :: ys) : mapBefore s x.1 = replayMap s.rrat (xs.map Prod.snd) := by
  obtain ⟨hlen, hslot⟩ := ringEntries_position h.rob hx
  have hage : robAge s x.1 = xs.length := by
    rw [hslot]
    exact age_of_slot (hlen.trans_le h.rob.count) h.rob.head
  rw [mapBefore, hage, hx, List.take_left]

/-! ### The order of renaming -/

/-- Two ROB entries are of one instruction, renamed alike; how far it has come may differ. -/
structure RobEntry.SameInstr (e e' : RobEntry) : Prop where
  opcode : e'.opcode = e.opcode
  rd : e'.rd = e.rd
  pd : e'.pd = e.pd
  prev : e'.prev = e.prev

theorem RobEntry.SameInstr.refl (e : RobEntry) : e.SameInstr e := ⟨rfl, rfl, rfl, rfl⟩

/-- Two ROB contents hold the same instructions in the same slots and the same order. -/
def SameOrder (R R' : List (Nat × RobEntry)) : Prop := List.Forall₂ (fun x y => y.1 = x.1 ∧ x.2.SameInstr y.2) R R'

theorem SameOrder.refl (R : List (Nat × RobEntry)) : SameOrder R R := List.forall₂_same.2 fun x _ => ⟨rfl, .refl x.2⟩

theorem SameOrder.replace {e e' : RobEntry} (he : e.SameInstr e') (r : Nat) (xs ys : List (Nat × RobEntry)) :
    SameOrder (xs ++ (r, e) :: ys) (xs ++ (r, e') :: ys) :=
  List.rel_append (SameOrder.refl xs) (.cons ⟨rfl, he⟩ (SameOrder.refl ys))

/-- The destinations of the entries of a list. -/
def destsOf (R : List (Nat × RobEntry)) : List Nat := R.filterMap fun x => x.2.pd

theorem destsOf_cons (x : Nat × RobEntry) (R : List (Nat × RobEntry)) : destsOf (x :: R) = x.2.pd.toList ++ destsOf R := by
  cases h : x.2.pd <;> simp [destsOf, h]

theorem owned_eq (s : State) : owned s = s.rrat ++ destsOf (robInOrder s) := by
  have h : ∀ R : List (Nat × RobEntry), robDests (R.map fun x => some x.2) = destsOf R := fun R => by
    induction R with
    | nil => rfl
    | cons x R ih => cases hx : x.2.pd <;> simpa [robDests, destsOf, hx] using ih
  rw [owned, h]

section
variable {R R' : List (Nat × RobEntry)} (h : SameOrder R R')
include h

theorem SameOrder.exists_of_mem {y : Nat × RobEntry} (hy : y ∈ R') : ∃ x ∈ R, y.1 = x.1 ∧ x.2.SameInstr y.2 := by
  induction h with
  | nil => cases hy
  | cons hxy _ ih =>
    obtain rfl | hy := List.mem_cons.1 hy
    · exact ⟨_, List.mem_cons_self, hxy⟩
    · obtain ⟨x, hx, hxy⟩ := ih hy
      exact ⟨x, List.mem_cons_of_mem _ hx, hxy⟩

theorem SameOrder.destsOf_eq : destsOf R' = destsOf R := by
  induction h with
  | nil => rfl
  | cons hxy _ ih =>
    simp only [destsOf, List.filterMap_cons, hxy.2.pd] at ih ⊢
    rw [ih]

theorem SameOrder.replayMap_eq (m : List Nat) : replayMap m (R'.map Prod.snd) = replayMap m (R.map Prod.snd) := by
  induction h generalizing m with
  | nil => rfl
  | cons hxy _ ih => simp [replayMap, RobEntry.mapAfter, hxy.2.pd, hxy.2.rd, ih]

theorem SameOrder.replayZsrc_eq (z : Option Nat) : replayZsrc z (R'.map Prod.snd) = replayZsrc z (R.map Prod.snd) := by
  induction h generalizing z with
  | nil => rfl
  | cons hxy _ ih => simp [replayZsrc, RobEntry.zsrcAfter, hxy.2.pd, ih]

theorem SameOrder.renameChain_eq (m : List Nat) (z : Option Nat) (cks : List Checkpoint) :
    renameChain m z (R'.map Prod.snd) cks = renameChain m z (R.map Prod.snd) cks := by
  induction h generalizing m z cks with
  | nil => rfl
  | cons hxy _ ih =>
    simp [renameChain, RobEntry.mapAfter, RobEntry.zsrcAfter, hxy.2.opcode, hxy.2.pd, hxy.2.rd, hxy.2.prev, ih]

theorem SameOrder.slots_eq (p : Opcode → Bool) :
    (R'.filter fun x => p x.2.opcode).map Prod.fst = (R.filter fun x => p x.2.opcode).map Prod.fst := by
  induction h with
  | nil => rfl
  | cons hxy _ ih =>
    simp only [List.filter_cons, hxy.2.opcode]
    split <;> simp [hxy.1, ih]

end

/-- Renaming does not see how far the instructions have come. -/
theorem renameOk_of_sameOrder {s t : State} (h : RenameOk s) (ho : SameOrder (robInOrder s) (robInOrder t)) (hcfg : t.cfg = s.cfg)
    (hrrat : t.rrat = s.rrat) (hfree : t.free = s.free) (hrat : t.rat = s.rat) (hzsrc : t.zsrc = s.zsrc) (hbis : t.bis = s.bis) :
    RenameOk t := by
  have howned : owned t = owned s := by rw [owned_eq, owned_eq, hrrat, ho.destsOf_eq]
  obtain ⟨hnodup, hbound, hpool, hentries, hmap, hbranches, hchain⟩ := h
  rw [RenameOk, howned, hcfg, hrrat, hfree, hrat, hzsrc, hbis, ho.slots_eq isBranch, ho.replayMap_eq]
  simp only [ho.replayZsrc_eq, ho.renameChain_eq]
  refine ⟨hnodup, hbound, hpool, fun y hy => ?_, hmap, hbranches, hchain⟩
  obtain ⟨x, hx, -, hxy⟩ := ho.exists_of_mem hy
  rw [hxy.opcode, hxy.pd, hxy.prev, hxy.rd]
  exact hentries x hx

theorem mapBefore_of_sameOrder {s t : State} (ho : SameOrder (robInOrder s) (robInOrder t)) (hrrat : t.rrat = s.rrat)
    (hcfg : t.cfg = s.cfg) (hhead : t.robHead = s.robHead) (r : Nat) : mapBefore t r = mapBefore s r := by
  have htake : SameOrder ((robInOrder s).take (robAge s r)) ((robInOrder t).take (robAge s r)) := List.forall₂_take _ ho
  have hage : robAge t r = robAge s r := by rw [robAge, robAge, hcfg, hhead]
  rw [mapBefore, mapBefore, hage, hrrat, htake.replayMap_eq]

/-- A register that a replay maps is of the map it starts from or a destination on the way. -/
theorem mem_of_mem_replayMap {R : List (Nat × RobEntry)} {m : List Nat} {p : Nat} (h : p ∈ replayMap m (R.map Prod.snd)) :
    p ∈ m ∨ p ∈ destsOf R := by
  induction R generalizing m with
  | nil => exact .inl h
  | cons x R ih =>
    obtain h | h := ih h
    · cases hpd : x.2.pd with
      | none => exact .inl (by simpa [RobEntry.mapAfter, hpd] using h)
      | some q =>
        rw [RobEntry.mapAfter, hpd] at h
        obtain h | rfl := List.mem_or_eq_of_mem_set h
        · exact .inl h
        · exact .inr (List.mem_filterMap.2 ⟨x, List.mem_cons_self, hpd⟩)
    · obtain ⟨y, hy, hpd⟩ := List.mem_filterMap.1 h
      exact .inr (List.mem_filterMap.2 ⟨y, List.mem_cons_of_mem _ hy, hpd⟩)

/-- Every register in a map that an instruction was renamed under is in use (R140). -/
theorem mem_owned_of_mem_mapBefore {s : State} {r p : Nat} (h : p ∈ mapBefore s r) : p ∈ owned s := by
  rw [owned_eq, List.mem_append]
  refine (mem_of_mem_replayMap h).imp_right fun hp => ?_
  obtain ⟨x, hx, hpd⟩ := List.mem_filterMap.1 hp
  exact List.mem_filterMap.2 ⟨x, List.mem_of_mem_take hx, hpd⟩

/-! ### The operations in flight -/

theorem robLink_iff {s : State} {o : Opcode} {r : Nat} {pd : Option Nat} :
    robLink s o r pd = true ↔ ∃ e, robAt s r = some e ∧ e.opcode = o ∧ e.pd = pd ∧ e.complete = false := by
  cases h : robAt s r <;> simp [robLink, h, and_assoc]

theorem lsqLink_iff {s : State} {o : Opcode} {r : Nat} {l : Option Nat} :
    lsqLink s o r l = true ↔ (l = none ∧ usesLsq o = false) ∨
      ∃ k q, l = some k ∧ usesLsq o = true ∧ lsqAt s k = some q ∧ q.rob = r ∧ q.addrValid = false := by
  cases l with
  | none => simp [lsqLink]
  | some k => cases h : lsqAt s k <;> simp [lsqLink, h]

/-- The entries of the instruction in ROB slot `r` are left as they are. -/
structure KeepsInstr (r : Nat) (s t : State) : Prop where
  rob : ∀ e, robAt s r = some e → robAt t r = some e
  lsq : ∀ l q, lsqAt s l = some q → q.rob = r → lsqAt t l = some q

theorem KeepsInstr.robLink {r : Nat} {s t : State} (h : KeepsInstr r s t) {o : Opcode} {pd : Option Nat}
    (hl : robLink s o r pd = true) : robLink t o r pd = true := by
  obtain ⟨e, he, hrest⟩ := robLink_iff.1 hl
  exact robLink_iff.2 ⟨e, h.rob e he, hrest⟩

theorem KeepsInstr.lsqLink {r : Nat} {s t : State} (h : KeepsInstr r s t) {o : Opcode} {l : Option Nat}
    (hl : lsqLink s o r l = true) : lsqLink t o r l = true := by
  obtain hnone | ⟨k, q, hk, ho, hq, hqr, hqa⟩ := lsqLink_iff.1 hl
  · exact lsqLink_iff.2 (.inl hnone)
  · exact lsqLink_iff.2 (.inr ⟨k, q, hk, ho, h.lsq k q hq hqr, hqr, hqa⟩)

/-- What the invariant says of one issue-queue entry (R32, R47 (a), R144). -/
structure IqEntryOk (s : State) (e : IqEntry) : Prop where
  rob : robLink s e.opcode e.rob e.pd = true
  lsq : lsqLink s e.opcode e.rob e.lsq = true
  arity : arity e.opcode e.src.length = true
  src : ∀ t ∈ e.src, prfReady s t.p = some t.ready ∧ t.p ∈ mapBefore s e.rob

/-- What the invariant says of one operation in a stage of unit `c` (R34, R47 (a), R195). -/
structure UnitOpOk (s : State) (c : UnitClass) (op : UnitLatch) : Prop where
  rob : robLink s op.opcode op.rob op.pd = true
  lsq : lsqLink s op.opcode op.rob op.lsq = true
  arity : arity op.opcode op.vals.length = true
  unit : unitClass op.opcode = c

theorem IqEntryOk.of_keeps {s t : State} {e : IqEntry} (h : IqEntryOk s e) (hk : KeepsInstr e.rob s t)
    (hmap : mapBefore t e.rob = mapBefore s e.rob) (hready : ∀ p ∈ mapBefore s e.rob, prfReady t p = prfReady s p) :
    IqEntryOk t e where
  rob := hk.robLink h.rob
  lsq := hk.lsqLink h.lsq
  arity := h.arity
  src x hx := by
    obtain ⟨hr, hm⟩ := h.src x hx
    exact ⟨(hready _ hm).trans hr, hmap ▸ hm⟩

theorem UnitOpOk.of_keeps {s t : State} {c : UnitClass} {op : UnitLatch} (h : UnitOpOk s c op) (hk : KeepsInstr op.rob s t) :
    UnitOpOk t c op :=
  ⟨hk.robLink h.rob, hk.lsqLink h.lsq, h.arity, h.unit⟩

theorem mem_iqEntries {s : State} {e : IqEntry} : e ∈ iqEntries s ↔ some e ∈ s.iq := by simp [iqEntries]

theorem mem_unitOps {s : State} {op : UnitLatch} : op ∈ unitOps s ↔ ∃ c, some op ∈ unitStages c s := by
  simp only [unitOps, List.mem_append, List.mem_filterMap, id_eq, exists_eq_right]
  constructor
  · rintro (((h | h) | h) | h)
    exacts [⟨.mem, h⟩, ⟨.br, h⟩, ⟨.mul, h⟩, ⟨.int, h⟩]
  · rintro ⟨c, h⟩
    cases c with
    | mem => exact .inl (.inl (.inl h))
    | br => exact .inl (.inl (.inr h))
    | mul => exact .inl (.inr h)
    | int => exact .inr h

/-- The ROB indices of the operations in the issue queue and the units. -/
def flightRobs (s : State) : List Nat := (iqEntries s).map IqEntry.rob ++ (unitOps s).map UnitLatch.rob

/-- The LSQ entry of the instruction in ROB slot `r` is a load that waits for its access. -/
def AwaitsAccess (s : State) (r : Nat) : Prop := ∃ l q, lsqAt s l = some q ∧ q.rob = r ∧ q.waiting = true

theorem mem_inProgress {s : State} (hq : QueuesOk s) {r : Nat} : r ∈ inProgress s ↔ r ∈ flightRobs s ∨ AwaitsAccess s r := by
  rw [inProgress, List.mem_append]
  refine or_congr Iff.rfl ?_
  simp only [List.mem_map, List.mem_filter]
  constructor
  · rintro ⟨q, ⟨⟨x, hx, rfl⟩, hw⟩, hr⟩
    exact ⟨x.1, x.2, (mem_lsqInOrder hq).1 hx, hr, hw⟩
  · rintro ⟨l, q, hl, hr, hw⟩
    exact ⟨q, ⟨⟨(l, q), (mem_lsqInOrder hq).2 hl, rfl⟩, hw⟩, hr⟩

/-! ### The order of the LSQ -/

/-- The LSQ's entries are the memory operations of the ROB in the same order (R47 (b)). -/
def LsqOrder (s : State) : Prop :=
  (lsqInOrder s).map (fun x => x.2.rob) = ((robInOrder s).filter fun x => usesLsq x.2.opcode).map Prod.fst

section
variable {s : State} (hq : QueuesOk s) (ho : LsqOrder s)
include hq ho

/-- An LSQ entry is that of a memory operation in the ROB. -/
theorem LsqOrder.owner {l : Nat} {q : LsqEntry} (hl : lsqAt s l = some q) :
    ∃ e, robAt s q.rob = some e ∧ usesLsq e.opcode = true := by
  have hmem : q.rob ∈ (lsqInOrder s).map fun x => x.2.rob := List.mem_map.2 ⟨(l, q), (mem_lsqInOrder hq).2 hl, rfl⟩
  rw [ho] at hmem
  obtain ⟨x, hx, hr⟩ := List.mem_map.1 hmem
  obtain ⟨hx, hu⟩ := List.mem_filter.1 hx
  exact ⟨x.2, hr ▸ (mem_robInOrder hq).1 hx, hu⟩

theorem LsqOrder.nodup : ((lsqInOrder s).map fun x => x.2.rob).Nodup := by
  rw [ho]
  exact (ringEntries_nodup hq.rob).sublist (List.filter_sublist.map _)

/-- An instruction has at most one LSQ entry. -/
theorem LsqOrder.unique {l l' : Nat} {q q' : LsqEntry} (hl : lsqAt s l = some q) (hl' : lsqAt s l' = some q')
    (hr : q.rob = q'.rob) : l = l' ∧ q = q' := by
  have heq := List.inj_on_of_nodup_map (ho.nodup hq) ((mem_lsqInOrder hq (x := (l, q))).2 hl)
    ((mem_lsqInOrder hq (x := (l', q'))).2 hl') hr
  exact Prod.ext_iff.1 heq

end

/-! ### The coupled clauses, instruction by instruction -/

/-- What the invariant says of the instruction in ROB slot `r`, whose entry is `e`: it is incomplete iff it is on its way, its LSQ
entry agrees with it, its destination is valid iff it is complete without a fault (R24, R47, R254, R290). -/
structure InstrOk (s : State) (r : Nat) (e : RobEntry) : Prop where
  complete : e.complete = false ↔ r ∈ flightRobs s ∨ AwaitsAccess s r
  lsq : ∀ l q, lsqAt s l = some q → q.rob = r → lsqAgrees s e q = true
  fault : usesLsq e.opcode = false → e.fault = false
  dest : ∀ p, e.pd = some p → prfReady s p = some (e.complete && !e.fault)
  branch : e.mispredicted = (isBranch e.opcode && e.complete && mispredict e)

/-- The clauses of the invariant that tie the engine's parts to each other, but for the instructions in the ROB slots `hole`: those are
in no queue and no unit, and of their entries nothing is said. The stages of a tick open such a hole and close it again. -/
structure CoupledBut (hole : List Nat) (s : State) : Prop where
  queues : QueuesOk s
  rename : RenameOk s
  order : LsqOrder s
  committed : ∀ p ∈ s.rrat, prfReady s p = some true
  iq : ∀ e ∈ iqEntries s, IqEntryOk s e
  unit : ∀ c op, some op ∈ unitStages c s → UnitOpOk s c op
  nodup : (hole ++ flightRobs s).Nodup
  instr : ∀ r e, robAt s r = some e → r ∉ hole → InstrOk s r e

/-- The clauses of the invariant that tie the engine's parts to each other. -/
abbrev Coupled (s : State) : Prop := CoupledBut [] s

/-- An operation in flight is linked to the entries of its instruction. -/
theorem CoupledBut.link_of_mem_flightRobs {hole : List Nat} {s : State} (h : CoupledBut hole s) {r : Nat} (hr : r ∈ flightRobs s) :
    ∃ o pd l, robLink s o r pd = true ∧ lsqLink s o r l = true := by
  obtain hr | hr := List.mem_append.1 hr
  · obtain ⟨x, hx, rfl⟩ := List.mem_map.1 hr
    exact ⟨_, _, _, (h.iq x hx).rob, (h.iq x hx).lsq⟩
  · obtain ⟨op, hop, rfl⟩ := List.mem_map.1 hr
    obtain ⟨c, hc⟩ := mem_unitOps.1 hop
    exact ⟨_, _, _, (h.unit c op hc).rob, (h.unit c op hc).lsq⟩

theorem CoupledBut.robAt_of_mem_flightRobs {hole : List Nat} {s : State} (h : CoupledBut hole s) {r : Nat} (hr : r ∈ flightRobs s) :
    ∃ e, robAt s r = some e ∧ e.complete = false := by
  obtain ⟨o, pd, l, hrob, -⟩ := h.link_of_mem_flightRobs hr
  obtain ⟨e, he, -, -, hc⟩ := robLink_iff.1 hrob
  exact ⟨e, he, hc⟩

/-- The LSQ entry of an operation in flight has no address yet. -/
theorem CoupledBut.addrValid_of_mem_flightRobs {hole : List Nat} {s : State} (h : CoupledBut hole s) {l : Nat} {q : LsqEntry}
    (hl : lsqAt s l = some q) (hr : q.rob ∈ flightRobs s) : q.addrValid = false := by
  obtain ⟨o, pd, l', hrob, hlink⟩ := h.link_of_mem_flightRobs hr
  obtain ⟨e, he, ho, -, -⟩ := robLink_iff.1 hrob
  obtain ⟨e', he', hu⟩ := h.order.owner h.queues hl
  obtain rfl : e' = e := Option.some.inj (he'.symm.trans he)
  obtain ⟨-, hno⟩ | ⟨k, q', -, -, hk, hqr, ha⟩ := lsqLink_iff.1 hlink
  · simp [← ho, hu] at hno
  · exact (h.order.unique h.queues hk hl hqr).2 ▸ ha

/-- An operation in flight is not one that waits for its access. -/
theorem CoupledBut.not_awaitsAccess {hole : List Nat} {s : State} (h : CoupledBut hole s) {r : Nat} (hr : r ∈ flightRobs s) :
    ¬ AwaitsAccess s r := by
  rintro ⟨l, q, hl, rfl, hw⟩
  simp [LsqEntry.waiting, h.addrValid_of_mem_flightRobs hl hr] at hw

/-! ### The invariant is its single-field clauses and the coupled ones -/

theorem Coupled.inProgress_nodup {s : State} (h : Coupled s) : (inProgress s).Nodup := by
  refine List.Nodup.append h.nodup ?_ fun r hr hw => ?_
  · refine (h.order.nodup h.queues).sublist ?_
    have := (List.filter_sublist (p := LsqEntry.waiting) (l := (lsqInOrder s).map Prod.snd)).map LsqEntry.rob
    rwa [List.map_map] at this
  · obtain ⟨q, hq, rfl⟩ := List.mem_map.1 hw
    obtain ⟨hq, hwait⟩ := List.mem_filter.1 hq
    obtain ⟨x, hx, rfl⟩ := List.mem_map.1 hq
    exact h.not_awaitsAccess hr ⟨x.1, x.2, (mem_lsqInOrder h.queues).1 hx, rfl, hwait⟩

theorem EngineInv.coupled {s : State} (h : EngineInv s) : Coupled s := by
  obtain ⟨-, hshape, hrings, -, -, hrename, ⟨hiq, hops, hcls, hnodup, hcomplete⟩, ⟨horder, hagrees, hfault⟩, ⟨hcommitted, hdest⟩,
    hbranch, -⟩ := h
  have hq := queuesOk_of_rings hshape hrings
  refine ⟨hq, hrename, horder, hcommitted, fun e he => ?_, fun c op hop => ?_, (List.nodup_append.1 hnodup).1, fun r e he _ => ?_⟩
  · obtain ⟨hr, hl, ha, hs⟩ := hiq e he
    exact ⟨hr, hl, ha, hs⟩
  · obtain ⟨hr, hl, ha⟩ := hops op (mem_unitOps.2 ⟨c, hop⟩)
    exact ⟨hr, hl, ha, hcls c (by cases c <;> simp) op (List.mem_filterMap.2 ⟨_, hop, rfl⟩)⟩
  · have hx : (r, e) ∈ robInOrder s := (mem_robInOrder hq).2 he
    refine ⟨?_, fun l q hl hr => ?_, hfault _ hx, fun p hp => hdest _ hx p hp, hbranch _ hx⟩
    · rw [hcomplete _ hx, ← mem_inProgress hq]
      simp
    · subst hr
      have := hagrees (l, q) ((mem_lsqInOrder hq).2 hl)
      simpa [he] using this

/-- The invariant from its single-field clauses and the coupled ones. -/
theorem engineInv_of_coupled {s : State} (hsetup : SetupOk s) (hshape : Shape s) (hmem : MemOk s) (hbtb : BtbOk s) (hdr : DrOk s)
    (h : Coupled s) : EngineInv s := by
  have instr : ∀ x ∈ robInOrder s, InstrOk s x.1 x.2 := fun x hx =>
    h.instr x.1 x.2 ((mem_robInOrder h.queues).1 hx) List.not_mem_nil
  refine ⟨hsetup, hshape, h.queues.rings, hmem, hbtb, h.rename, ⟨fun e he => ?_, fun op hop => ?_, fun c _ op hop => ?_,
    h.inProgress_nodup, fun x hx => ?_⟩, ⟨h.order, fun x hx => ?_, fun x hx => (instr x hx).fault⟩,
    ⟨h.committed, fun x hx p hp => (instr x hx).dest p hp⟩, fun x hx => (instr x hx).branch, hdr⟩
  · exact ⟨(h.iq e he).rob, (h.iq e he).lsq, (h.iq e he).arity, (h.iq e he).src⟩
  · obtain ⟨c, hc⟩ := mem_unitOps.1 hop
    exact ⟨(h.unit c op hc).rob, (h.unit c op hc).lsq, (h.unit c op hc).arity⟩
  · exact (h.unit c op (by simpa using hop)).unit
  · have := (instr x hx).complete
    rw [← mem_inProgress h.queues] at this
    by_cases hp : x.1 ∈ inProgress s
    · simpa [hp] using this
    · simpa [hp] using this
  · have hl := (mem_lsqInOrder h.queues).1 hx
    obtain ⟨e, he, -⟩ := h.order.owner h.queues hl
    rw [he]
    exact (h.instr _ e he List.not_mem_nil).lsq x.1 x.2 hl rfl

/-- The invariant after a stage that leaves all that is committed as it is. -/
theorem EngineInv.of_keepsCommitted {s t : State} (h : EngineInv s) (hk : KeepsCommitted s t) (hshape : Shape t) (hdr : DrOk t)
    (hc : Coupled t) : EngineInv t := by
  obtain ⟨hsetup, -, -, hmem, hbtb, -⟩ := h
  refine engineInv_of_coupled ?_ hshape ?_ ?_ hdr hc
  · rwa [SetupOk, hk.cfg, hk.prog]
  · rwa [MemOk, hk.cfg, hk.dmem]
  · rwa [BtbOk, hk.cfg, hk.btb, hk.btbRr]

end Sys2Proof.Machine

/-! ## Small steps in flight

SUPPORT. What the stages between commit and dispatch do, cut into single updates, and the coupled clauses after each: an operation
leaves its unit, its ROB or LSQ entry is rewritten, its result is delivered, its hole is closed. -/

namespace Sys2Proof.Machine

/-! ### The updates -/

/-- The engine with `e` in ROB slot `r`. -/
def withRob (r : Nat) (e : RobEntry) (s : State) : State := { s with rob := s.rob.set r (some e) }

/-- The engine with `q` in LSQ slot `l`. -/
def withLsq (l : Nat) (q : LsqEntry) (s : State) : State := { s with lsq := s.lsq.set l (some q) }

/-- The engine after `v` was broadcast into register `p` (R200). -/
def delivered (p : Nat) (v : Word) (s : State) : State :=
  { s with prf := s.prf.set p ⟨v, true⟩, iq := s.iq.map (Option.map (IqEntry.wake p)) }

/-- The engine after unit `c` advanced (R196). -/
def advanceUnit (c : UnitClass) (s : State) : State := setUnit c (advance (unitStages c s)) s

/-! ### Units -/

/-- Every operation of a unit moves on and none is stalled; the one in the last stage leaves. -/
theorem advance_append (l : List (Option UnitLatch)) (x : Option UnitLatch) :
    advance (l ++ [x]) = none :: l.map (Option.map UnitLatch.moved) := by
  induction l with
  | nil => rfl
  | cons y l ih =>
    obtain ⟨z, rest, hz⟩ : ∃ z rest, l ++ [x] = z :: rest := List.exists_cons_of_ne_nil (by simp)
    have hrest : advance (z :: rest) = none :: l.map (Option.map UnitLatch.moved) := hz ▸ ih
    rw [List.cons_append, hz]
    cases y <;> simp [advance, hrest]

/-- What is in a unit after its advance was there before. -/
theorem exists_of_mem_advance {l : List (Option UnitLatch)} {op : UnitLatch} (h : some op ∈ advance l) :
    ∃ op', some op' ∈ l ∧ op = op'.moved := by
  obtain rfl | ⟨l, x, rfl⟩ := l.eq_nil_or_concat
  · cases h
  · simp only [List.concat_eq_append, advance_append, List.mem_cons, reduceCtorEq, List.mem_map, Option.map_eq_some_iff,
      false_or] at h
    obtain ⟨_, hy, op', rfl, rfl⟩ := h
    exact ⟨op', by simp [hy], rfl⟩

/-- The ROB indices of the operations in a unit's stages. -/
def stageRobs (l : List (Option UnitLatch)) : List Nat := (l.filterMap id).map UnitLatch.rob

/-- The ROB index of the operation in the last stage of a unit, if there is one. -/
def lastRob (l : List (Option UnitLatch)) : List Nat := ((lastOp l).map UnitLatch.rob).toList

theorem stageRobs_advance (l : List (Option UnitLatch)) : (stageRobs l).Perm (lastRob l ++ stageRobs (advance l)) := by
  obtain rfl | ⟨l, x, rfl⟩ := l.eq_nil_or_concat
  · exact .refl _
  · have hmoved : ((l.map (Option.map UnitLatch.moved)).filterMap id).map UnitLatch.rob = stageRobs l := by
      rw [List.filterMap_map, List.map_filterMap, stageRobs, List.map_filterMap]
      refine List.filterMap_congr fun x _ => ?_
      cases x <;> rfl
    rw [List.concat_eq_append, advance_append, lastRob, lastOp, List.getLast?_append, stageRobs, stageRobs, List.filterMap_append,
      List.filterMap_cons_none (f := id) rfl, hmoved, List.map_append]
    refine List.perm_append_comm.trans (List.Perm.append_right _ ?_)
    cases x <;> exact .refl _

theorem unitStages_setUnit_self (c : UnitClass) (l : List (Option UnitLatch)) (s : State) : unitStages c (setUnit c l s) = l := by
  cases c <;> rfl

theorem unitStages_setUnit_ne {c c' : UnitClass} (h : c' ≠ c) (l : List (Option UnitLatch)) (s : State) :
    unitStages c' (setUnit c l s) = unitStages c' s := by
  cases c <;> cases c' <;> simp_all [setUnit, unitStages]

/-- Replacing a unit's stages changes nothing but units. -/
theorem setUnit_frame (c : UnitClass) (l : List (Option UnitLatch)) (s : State) :
    ∃ i m b e, setUnit c l s = { s with intU := i, mulU := m, brU := b, memU := e } := by
  cases c <;> exact ⟨_, _, _, _, rfl⟩

theorem count_flightRobs (s : State) (r : Nat) : (flightRobs s).count r = ((iqEntries s).map IqEntry.rob).count r +
    ((stageRobs (unitStages .mem s)).count r + (stageRobs (unitStages .br s)).count r +
      (stageRobs (unitStages .mul s)).count r + (stageRobs (unitStages .int s)).count r) := by
  simp only [flightRobs, unitOps, List.map_append, List.count_append]
  rfl

/-- What a unit's stages lose is what the operations in flight lose. -/
theorem flightRobs_setUnit {c : UnitClass} {l : List (Option UnitLatch)} {s : State} {xs ys : List Nat}
    (h : (xs ++ stageRobs (unitStages c s)).Perm (ys ++ stageRobs l)) :
    (xs ++ flightRobs s).Perm (ys ++ flightRobs (setUnit c l s)) := by
  rw [List.perm_iff_count] at h ⊢
  intro r
  have := h r
  simp only [List.count_append, count_flightRobs] at this ⊢
  cases c <;> simp only [setUnit, unitStages, iqEntries] at this ⊢ <;> omega

/-! ### Changes in flight only -/

/-- The coupled clauses after operations moved between the issue queue, the units and the hole. -/
theorem CoupledBut.of_flight {hole hole' : List Nat} {s t : State} (h : CoupledBut hole s)
    (ht : t = { s with iq := t.iq, intU := t.intU, mulU := t.mulU, brU := t.brU, memU := t.memU })
    (hiq : ∀ e ∈ iqEntries t, e ∈ iqEntries s) (hunit : ∀ c op, some op ∈ unitStages c t → UnitOpOk s c op)
    (hperm : (hole ++ flightRobs s).Perm (hole' ++ flightRobs t)) (hsub : ∀ r ∈ hole, r ∈ hole') : CoupledBut hole' t := by
  generalize t.iq = i, t.intU = a, t.mulU = m, t.brU = b, t.memU = c at ht
  have hmem : ∀ r ∉ hole', r ∈ flightRobs s ↔ r ∈ flightRobs t := fun r hr => by
    have := hperm.mem_iff (a := r)
    simpa [hr, mt (hsub r) hr] using this
  subst ht
  exact {
    queues := ⟨h.queues.rob, h.queues.robTail, h.queues.lsq, h.queues.lsqTail⟩
    rename := h.rename
    order := h.order
    committed := h.committed
    iq := fun e he => (h.iq e (hiq e he)).of_keeps ⟨fun _ h => h, fun _ _ h _ => h⟩ rfl fun _ _ => rfl
    unit := fun c op hop => (hunit c op hop).of_keeps ⟨fun _ h => h, fun _ _ h _ => h⟩
    nodup := hperm.nodup_iff.1 h.nodup
    instr := fun r e he hr => by
      have hold := h.instr r e he (mt (hsub r) hr)
      exact ⟨hold.complete.trans (or_congr (hmem r hr) Iff.rfl), hold.lsq, hold.fault, hold.dest, hold.branch⟩ }

theorem UnitOpOk.moved {s : State} {c : UnitClass} {op : UnitLatch} (h : UnitOpOk s c op) : UnitOpOk s c op.moved :=
  ⟨h.rob, h.lsq, h.arity, h.unit⟩

/-- When a unit advances, the instruction in its last stage is left in the hole. -/
theorem Coupled.advanceUnit {s : State} (h : Coupled s) (c : UnitClass) :
    CoupledBut (lastRob (unitStages c s)) (advanceUnit c s) := by
  obtain ⟨i, m, b, e, hframe⟩ := setUnit_frame c (advance (unitStages c s)) s
  refine h.of_flight (by rw [Machine.advanceUnit, hframe]) ?_ (fun c' op hop => ?_) (flightRobs_setUnit (stageRobs_advance _)) (by simp)
  · rw [Machine.advanceUnit, hframe]
    exact fun _ he => he
  · by_cases hc : c' = c
    · subst hc
      rw [Machine.advanceUnit, unitStages_setUnit_self] at hop
      obtain ⟨op', hop', rfl⟩ := exists_of_mem_advance hop
      exact (h.unit _ op' hop').moved
    · rw [Machine.advanceUnit, unitStages_setUnit_ne hc] at hop
      exact h.unit c' op hop

/-! ### Opening and closing a hole -/

/-- An instruction that is in no unit and not in the issue queue may be taken for the hole. -/
theorem Coupled.openHole {s : State} (h : Coupled s) {r : Nat} (hr : r ∉ flightRobs s) : CoupledBut [r] s :=
  { h with
    nodup := List.nodup_cons.2 ⟨hr, h.nodup⟩
    instr := fun i e he _ => h.instr i e he List.not_mem_nil }

section
variable {r : Nat} {s : State} (h : CoupledBut [r] s)
include h

theorem CoupledBut.not_mem_flightRobs : r ∉ flightRobs s := (List.nodup_cons.1 h.nodup).1

/-- The hole is closed when its instruction meets its clauses again. -/
theorem CoupledBut.closeHole (hi : ∀ e, robAt s r = some e → InstrOk s r e) : Coupled s :=
  { h with
    nodup := (List.nodup_cons.1 h.nodup).2
    instr := fun i e he _ => by
      by_cases hir : i = r
      · subst hir
        exact hi e he
      · exact h.instr i e he (by simpa using hir) }

/-- The hole of an instruction that is no memory operation is closed when its entry is complete and its destination valid. -/
theorem CoupledBut.closeHole_complete {e : RobEntry} (he : robAt s r = some e) (hu : usesLsq e.opcode = false)
    (hc : e.complete = true) (hf : e.fault = false) (hdest : ∀ p, e.pd = some p → prfReady s p = some true)
    (hb : e.mispredicted = (isBranch e.opcode && mispredict e)) : Coupled s := by
  have hno : ∀ l q, lsqAt s l = some q → q.rob ≠ r := fun l q hl hr => by
    obtain ⟨e', he', hu'⟩ := h.order.owner h.queues hl
    rw [hr, he] at he'
    simp [← Option.some.inj he', hu] at hu'
  refine h.closeHole fun e' he' => ?_
  obtain rfl := Option.some.inj (he.symm.trans he')
  refine ⟨?_, fun l q hl hr => absurd hr (hno l q hl), fun _ => hf, by simpa [hc, hf] using hdest, by simpa [hc] using hb⟩
  simp only [hc, Bool.true_eq_false, h.not_mem_flightRobs, false_or, false_iff]
  rintro ⟨l, q, hl, hr, -⟩
  exact hno l q hl hr

/-- The hole of a memory operation is closed when its LSQ entry agrees with its ROB entry again. -/
theorem CoupledBut.closeHole_memory {e : RobEntry} {l : Nat} {q : LsqEntry} (he : robAt s r = some e) (hl : lsqAt s l = some q)
    (hr : q.rob = r) (hagrees : lsqAgrees s e q = true) (hwait : e.complete = false ↔ q.waiting = true)
    (hu : usesLsq e.opcode = true) (hdest : ∀ p, e.pd = some p → prfReady s p = some (e.complete && !e.fault))
    (hb : e.mispredicted = (isBranch e.opcode && e.complete && mispredict e)) : Coupled s := by
  have honly : ∀ l' q', lsqAt s l' = some q' → q'.rob = r → q' = q := fun l' q' hl' hr' =>
    (h.order.unique h.queues hl' hl (hr'.trans hr.symm)).2
  refine h.closeHole fun e' he' => ?_
  obtain rfl := Option.some.inj (he.symm.trans he')
  refine ⟨?_, fun l' q' hl' hr' => honly l' q' hl' hr' ▸ hagrees, fun hn => by simp [hu] at hn, hdest, hb⟩
  simp only [h.not_mem_flightRobs, false_or, hwait]
  refine ⟨fun hw => ⟨l, q, hl, hr, hw⟩, ?_⟩
  rintro ⟨l', q', hl', hr', hw⟩
  exact honly l' q' hl' hr' ▸ hw

/-! ### Updates of the hole's entries -/

theorem CoupledBut.ne_of_mem_flightRobs {i : Nat} (hi : i ∈ flightRobs s) : i ≠ r := fun heq =>
  h.not_mem_flightRobs (heq ▸ hi)

/-- What changes the entries of no instruction but the hole's, and keeps the order, keeps the operations in flight linked. -/
theorem CoupledBut.linked {t : State} (ht : t = { s with rob := t.rob, lsq := t.lsq }) (hk : ∀ i ≠ r, KeepsInstr i s t)
    (ho : SameOrder (robInOrder s) (robInOrder t)) :
    (∀ e ∈ iqEntries t, IqEntryOk t e) ∧ ∀ c op, some op ∈ unitStages c t → UnitOpOk t c op := by
  generalize t.rob = rob, t.lsq = lsq at ht
  subst ht
  constructor
  · intro e he
    have hne := h.ne_of_mem_flightRobs (List.mem_append_left _ (List.mem_map_of_mem he))
    exact (h.iq e he).of_keeps (hk _ hne) (mapBefore_of_sameOrder ho rfl rfl rfl _) fun _ _ => rfl
  · intro c op hop
    have hne := h.ne_of_mem_flightRobs (List.mem_append_right _ (List.mem_map_of_mem (mem_unitOps.2 ⟨c, hop⟩)))
    exact (h.unit c op hop).of_keeps (hk _ hne)

/-- The entry of the instruction in the hole may be rewritten. -/
theorem CoupledBut.withRob {e e' : RobEntry} (he : robAt s r = some e) (hsame : e.SameInstr e') : CoupledBut [r] (withRob r e' s) := by
  obtain ⟨xs, ys, hxs, hys⟩ := ringEntries_set h.queues.rob he e'
  have ho : SameOrder (robInOrder s) (robInOrder (Machine.withRob r e' s)) := by
    rw [show robInOrder s = _ from hxs, show robInOrder (Machine.withRob r e' s) = _ from hys]
    exact .replace hsame r xs ys
  have hother : ∀ i ≠ r, robAt (Machine.withRob r e' s) i = robAt s i := fun i hi => ringAt_set_ne hi.symm
  obtain ⟨hiq, hunit⟩ := h.linked (t := Machine.withRob r e' s) rfl
    (fun i hi => ⟨fun _ hx => (hother i hi).trans hx, fun _ _ hl _ => hl⟩) ho
  exact {
    queues := ⟨h.queues.rob.set he e', h.queues.robTail, h.queues.lsq, h.queues.lsqTail⟩
    rename := renameOk_of_sameOrder h.rename ho rfl rfl rfl rfl rfl rfl
    order := h.order.trans (ho.slots_eq usesLsq).symm
    committed := h.committed
    iq := hiq
    unit := hunit
    nodup := h.nodup
    instr := fun i x hx hi => by
      have hold := h.instr i x ((hother i (by simpa using hi)) ▸ hx) hi
      exact ⟨hold.complete, hold.lsq, hold.fault, hold.dest, hold.branch⟩ }

/-- The LSQ entry of the instruction in the hole may be rewritten. -/
theorem CoupledBut.withLsq {l : Nat} {q q' : LsqEntry} (hl : lsqAt s l = some q) (hr : q.rob = r) (hr' : q'.rob = r) :
    CoupledBut [r] (withLsq l q' s) := by
  obtain ⟨xs, ys, hxs, hys⟩ := ringEntries_set h.queues.lsq hl q'
  have hother : ∀ i ≠ r, ∀ k x, x.rob = i → (lsqAt (Machine.withLsq l q' s) k = some x ↔ lsqAt s k = some x) := by
    intro i hi k x hx
    by_cases hk : k = l
    · subst hk
      have hnew : lsqAt (Machine.withLsq k q' s) k = some q' := ringAt_set_self (ringAt_lt hl)
      rw [hnew, hl, Option.some.injEq, Option.some.injEq]
      exact iff_of_false (fun heq => hi (by rw [← hx, ← heq, hr'])) fun heq => hi (by rw [← hx, ← heq, hr])
    · exact iff_of_eq (congrArg (· = some x) (ringAt_set_ne (Ne.symm hk)))
  obtain ⟨hiq, hunit⟩ := h.linked (t := Machine.withLsq l q' s) rfl
    (fun i hi => ⟨fun _ hx => hx, fun k x hk hx => (hother i hi k x hx).2 hk⟩) (.refl _)
  exact {
    queues := ⟨h.queues.rob, h.queues.robTail, h.queues.lsq.set hl q', h.queues.lsqTail⟩
    rename := h.rename
    order := by
      have hold := h.order
      rw [LsqOrder, lsqInOrder_eq, hxs] at hold
      rw [LsqOrder, lsqInOrder_eq]
      refine Eq.trans (congrArg _ hys) (Eq.trans ?_ hold)
      simp [hr, hr']
    committed := h.committed
    iq := hiq
    unit := hunit
    nodup := h.nodup
    instr := fun i x hx hi => by
      have hold := h.instr i x hx hi
      have hne : i ≠ r := by simpa using hi
      refine ⟨hold.complete.trans (or_congr Iff.rfl ?_), fun k y hk hy => hold.lsq k y ((hother i hne k y hy).1 hk) hy, hold.fault,
        hold.dest, hold.branch⟩
      exact exists_congr fun k => exists_congr fun y =>
        ⟨fun ⟨hk, hy, hw⟩ => ⟨(hother i hne k y hy).2 hk, hy, hw⟩, fun ⟨hk, hy, hw⟩ => ⟨(hother i hne k y hy).1 hk, hy, hw⟩⟩ }

end

/-! ### The result bus -/

theorem prfReady_delivered_self {p : Nat} {v : Word} {s : State} {b : Bool} (hp : prfReady s p = some b) :
    prfReady (delivered p v s) p = some true := by
  obtain ⟨x, hx, -⟩ := Option.map_eq_some_iff.1 hp
  have hlt : p < s.prf.length := (List.getElem?_eq_some_iff.1 hx).1
  simp [prfReady, delivered, hlt]

theorem prfReady_delivered_ne {p p' : Nat} {v : Word} {s : State} (hp : p ≠ p') :
    prfReady (delivered p v s) p' = prfReady s p' := by
  simp [prfReady, delivered, List.getElem?_set_ne hp]

theorem iqEntries_delivered (p : Nat) (v : Word) (s : State) :
    iqEntries (delivered p v s) = (iqEntries s).map (IqEntry.wake p) := by
  simp [iqEntries, delivered, List.filterMap_map, List.map_filterMap]

theorem eq_of_nodup_filterMap {α β : Type} {f : α → Option β} {l : List α} (h : (l.filterMap f).Nodup) {x y : α} (hx : x ∈ l)
    (hy : y ∈ l) {b : β} (hfx : f x = some b) (hfy : f y = some b) : x = y := by
  have hpair := List.pairwise_filterMap.1 h
  have hsymm : Std.Symm fun x y => ∀ b, f x = some b → ∀ b', f y = some b' → b ≠ b' :=
    ⟨fun _ _ hxy b hb b' hb' heq => hxy b' hb' b hb heq.symm⟩
  by_contra hne
  exact hpair.forall hx hy hne b hfx b hfy rfl

/-- A destination in flight is that of one instruction only (R25). -/
theorem CoupledBut.dest_injective {hole : List Nat} {s : State} (h : CoupledBut hole s) {r r' p : Nat} {e e' : RobEntry}
    (he : robAt s r = some e) (he' : robAt s r' = some e') (hp : e.pd = some p) (hp' : e'.pd = some p) : r = r' := by
  obtain ⟨hnodup, -⟩ := h.rename
  rw [owned_eq, List.nodup_append] at hnodup
  obtain ⟨-, hdests, -⟩ := hnodup
  have heq := eq_of_nodup_filterMap hdests ((mem_robInOrder h.queues (x := (r, e))).2 he)
    ((mem_robInOrder h.queues (x := (r', e'))).2 he') hp hp'
  exact congrArg Prod.fst heq

/-- The result of the instruction in the hole may be delivered: no register in use is that one (R142, R144). -/
theorem CoupledBut.delivered {r : Nat} {s : State} (h : CoupledBut [r] s) {e : RobEntry} {p : Nat} (v : Word)
    (he : robAt s r = some e) (hpd : e.pd = some p) (hp : prfReady s p = some false) : CoupledBut [r] (delivered p v s) := by
  have hrobs : flightRobs (Machine.delivered p v s) = flightRobs s := by
    rw [flightRobs, iqEntries_delivered, List.map_map]
    rfl
  exact {
    queues := ⟨h.queues.rob, h.queues.robTail, h.queues.lsq, h.queues.lsqTail⟩
    rename := h.rename
    order := h.order
    committed := fun p' hp' => by
      have hready := h.committed p' hp'
      rw [prfReady_delivered_ne, hready]
      rintro rfl
      simp [hp] at hready
    iq := fun x hx => by
      rw [iqEntries_delivered] at hx
      obtain ⟨y, hy, rfl⟩ := List.mem_map.1 hx
      have hold := h.iq y hy
      refine ⟨hold.rob, hold.lsq, by simpa [IqEntry.wake] using hold.arity, fun t ht => ?_⟩
      obtain ⟨t', ht', rfl⟩ := List.mem_map.1 ht
      obtain ⟨hready, hmap⟩ := hold.src t' ht'
      unfold SrcTag.wake
      split
      · rename_i heq
        subst heq
        exact ⟨prfReady_delivered_self hp, hmap⟩
      · rename_i hne
        exact ⟨(prfReady_delivered_ne (Ne.symm hne)).trans hready, hmap⟩
    unit := fun c op hop => (h.unit c op hop).of_keeps ⟨fun _ hx => hx, fun _ _ hx _ => hx⟩
    nodup := hrobs ▸ h.nodup
    instr := fun i x hx hi => by
      have hold := h.instr i x hx hi
      refine ⟨?_, hold.lsq, hold.fault, fun p' hp' => ?_, hold.branch⟩
      · rw [hrobs]
        exact hold.complete
      · rw [prfReady_delivered_ne, hold.dest p' hp']
        rintro rfl
        exact hi (by simpa using h.dest_injective hx he hp' hpd) }

end Sys2Proof.Machine

/-! ## The stages in flight keep the invariant

SUPPORT. The load access, the units, issue, fetch and a stalled dispatch (R47, R150, R156, R183, R196, R287). -/

namespace Sys2Proof.Machine

/-- What a LSQ entry and its ROB entry must agree on (R47 (b), R290). -/
theorem lsqAgrees_iff {s : State} {e : RobEntry} {q : LsqEntry} : lsqAgrees s e q = true ↔
    q.isStore = isStoreOp e.opcode ∧ q.pd = e.pd ∧ q.done = e.complete ∧
      (if q.isStore then q.done = q.addrValid else q.done = true → q.addrValid = true) ∧
      e.fault = (q.addrValid && !inData s q.addr) ∧ (e.fault = true → e.faultAddr = q.addr ∧ q.done = true) := by
  unfold lsqAgrees
  generalize (q.addrValid && !inData s q.addr) = b
  cases hs : q.isStore <;> cases hd : q.done <;> cases hf : e.fault <;> simp [and_assoc]

theorem CoupledBut.pd_isSome {hole : List Nat} {s : State} (h : CoupledBut hole s) {r : Nat} {e : RobEntry} (he : robAt s r = some e) :
    e.pd.isSome = hasDest e.opcode := by
  obtain ⟨-, -, -, hentries, -⟩ := h.rename
  exact (hentries (r, e) ((mem_robInOrder h.queues).2 he)).1

theorem CoupledBut.pd_eq_none {hole : List Nat} {s : State} (h : CoupledBut hole s) {r : Nat} {e : RobEntry} (he : robAt s r = some e)
    (hd : hasDest e.opcode = false) : e.pd = none := by
  simpa [hd] using h.pd_isSome he

theorem robAt_withRob_self {r : Nat} {e e' : RobEntry} {s : State} (he : robAt s r = some e) : robAt (withRob r e' s) r = some e' :=
  ringAt_set_self (ringAt_lt he)

theorem lsqAt_withLsq_self {l : Nat} {q q' : LsqEntry} {s : State} (hl : lsqAt s l = some q) : lsqAt (withLsq l q' s) l = some q' :=
  ringAt_set_self (ringAt_lt hl)

theorem RobEntry.sameInstr_completed (e : RobEntry) : e.SameInstr e.completed := ⟨rfl, rfl, rfl, rfl⟩

/-! ### The load access -/

/-- The load that is performed is one of the LSQ and waits for its access (R286). -/
theorem firstEligible_eq_some {older : List LsqEntry} {L : List (Nat × LsqEntry)} {x : Nat × LsqEntry}
    (h : firstEligible older L = some x) : x ∈ L ∧ x.2.waiting = true := by
  induction L generalizing older with
  | nil => cases h
  | cons y L ih =>
    obtain ⟨l, q⟩ := y
    rw [firstEligible] at h
    split at h
    · rename_i hel
      obtain rfl := Option.some.inj h
      rw [eligible, Bool.and_eq_true] at hel
      exact ⟨List.mem_cons_self, hel.1⟩
    · obtain ⟨hmem, hw⟩ := ih h
      exact ⟨List.mem_cons_of_mem _ hmem, hw⟩

theorem isBranch_of_usesLsq {o : Opcode} (h : usesLsq o = true) : isBranch o = false := by
  cases hb : isBranch o with
  | false => rfl
  | true => simp [usesLsq_of_isBranch hb] at h

theorem lsqLoadAccess_coupled {s t : State} (hs : Coupled s) (h : lsqLoadAccess s = .next t) : Coupled t := by
  obtain ⟨-, rfl⟩ | ⟨l, q, p, e, hfirst, hpd, hin, hready, he, ht⟩ := lsqLoadAccess_eq_next h
  · exact hs
  replace ht : t = delivered p (memRead s q.addr) (withLsq l q.finished (withRob q.rob e.completed s)) := ht
  obtain ⟨hmem, hw⟩ := firstEligible_eq_some hfirst
  have hl : lsqAt s l = some q := (mem_lsqInOrder hs.queues).1 hmem
  have hi := hs.instr _ e he List.not_mem_nil
  obtain ⟨hstore, hepd, -, -, hfault, -⟩ := lsqAgrees_iff.1 (hi.lsq l q hl rfl)
  have hcomplete : e.complete = false := hi.complete.2 (.inr ⟨l, q, hl, rfl, hw⟩)
  obtain ⟨e', he', hu⟩ := hs.order.owner hs.queues hl
  obtain rfl := Option.some.inj (he'.symm.trans he)
  have hbranch := isBranch_of_usesLsq hu
  have hopen : CoupledBut [q.rob] s := hs.openHole fun hf => hs.not_awaitsAccess hf ⟨l, q, hl, rfl, hw⟩
  simp only [LsqEntry.waiting, Bool.and_eq_true, Bool.not_eq_true'] at hw
  obtain ⟨⟨hload, haddr⟩, -⟩ := hw
  have hnofault : e'.fault = false := by simpa [hin] using hfault
  have hwritten := (hopen.withRob he e'.sameInstr_completed).withLsq (q' := q.finished) hl rfl rfl
  have hnew : robAt (withLsq l q.finished (withRob q.rob e'.completed s)) q.rob = some e'.completed := robAt_withRob_self he
  have hnewpd : e'.completed.pd = some p := hepd.symm.trans hpd
  rw [ht]
  refine (hwritten.delivered _ hnew hnewpd hready).closeHole_memory hnew (lsqAt_withLsq_self hl) rfl (lsqAgrees_iff.2 ?agrees) ?waits hu
    ?dest ?branch
  case agrees => exact ⟨hstore, hepd, rfl, by simp [LsqEntry.finished, hload, haddr], hfault, by simp [RobEntry.completed, hnofault]⟩
  case waits => simp [RobEntry.completed, LsqEntry.waiting, LsqEntry.finished]
  case dest =>
    intro p' hp'
    obtain rfl := Option.some.inj (hnewpd.symm.trans hp')
    refine (prfReady_delivered_self (b := false) hready).trans ?_
    simp [RobEntry.completed, hnofault]
  case branch => simpa [RobEntry.completed, hbranch] using hi.branch

/-! ### The units -/

theorem mem_of_lastOp {l : List (Option UnitLatch)} {op : UnitLatch} (h : lastOp l = some op) : some op ∈ l :=
  List.mem_of_getLast? (Option.join_eq_some_iff.1 h)

/-- The operation in the last stage: its ROB entry, incomplete, and what the invariant says of it. -/
theorem Coupled.lastOp {s : State} (hs : Coupled s) {c : UnitClass} {op : UnitLatch} (hop : lastOp (unitStages c s) = some op) :
    CoupledBut [op.rob] (Machine.advanceUnit c s) ∧ ∃ e, robAt s op.rob = some e ∧ e.opcode = op.opcode ∧ e.pd = op.pd ∧
      e.complete = false ∧ e.mispredicted = false ∧ InstrOk s op.rob e := by
  have hopen := hs.advanceUnit c
  rw [lastRob, hop] at hopen
  obtain ⟨e, he, ho, hpd, hc⟩ := robLink_iff.1 (hs.unit c op (mem_of_lastOp hop)).rob
  have hi := hs.instr _ e he List.not_mem_nil
  exact ⟨hopen, e, he, ho, hpd, hc, by simpa [hc] using hi.branch, hi⟩

theorem robAt_advanceUnit (c : UnitClass) (s : State) (r : Nat) : robAt (advanceUnit c s) r = robAt s r := by cases c <;> rfl

theorem prfReady_advanceUnit (c : UnitClass) (s : State) (p : Nat) : prfReady (advanceUnit c s) p = prfReady s p := by cases c <;> rfl

theorem advanceUnit_withRob (c : UnitClass) (r : Nat) (e : RobEntry) (s : State) :
    advanceUnit c (withRob r e s) = withRob r e (advanceUnit c s) := by cases c <;> rfl

theorem advanceUnit_delivered (c : UnitClass) (p : Nat) (v : Word) (s : State) :
    advanceUnit c (delivered p v s) = delivered p v (advanceUnit c s) := by cases c <;> rfl

/-- An operation of these units is no memory operation and no branch, and has a destination iff it has a result (R199). -/
theorem aluKind {op : UnitLatch} (h : unitClass op.opcode = .mul ∨ unitClass op.opcode = .int) :
    usesLsq op.opcode = false ∧ isBranch op.opcode = false ∧ hasDest op.opcode = (aluResult op).isSome := by
  cases ho : op.opcode <;> simp_all [unitClass, usesLsq, isBranch, hasDest, aluResult]

/-- The integer and the multiply unit: the result is delivered and the entry completes (R199). -/
theorem aluLast_coupled {c : UnitClass} {op : UnitLatch} {s u : State} (hs : Coupled s) (hop : lastOp (unitStages c s) = some op)
    (hc : c = .mul ∨ c = .int) (h : aluLast op s = .next u) : Coupled (advanceUnit c u) := by
  obtain ⟨hopen, e, he, ho, hpd, -, hmis, hi⟩ := hs.lastOp hop
  obtain ⟨hu, hbr, hdest⟩ := aluKind ((hs.unit c op (mem_of_lastOp hop)).unit ▸ hc)
  rw [← ho] at hu hbr hdest
  have he' : robAt (advanceUnit c s) op.rob = some e := (robAt_advanceUnit _ _ _).trans he
  have hwritten := hopen.withRob he' e.sameInstr_completed
  have hnew : robAt (withRob op.rob e.completed (advanceUnit c s)) op.rob = some e.completed := robAt_withRob_self he'
  have hmis' : e.completed.mispredicted = (isBranch e.opcode && mispredict e.completed) := by simp [RobEntry.completed, hmis, hbr]
  obtain ⟨f, hf, ⟨hw, hnone⟩ | ⟨v, p, -, hp, hready, hw⟩⟩ := aluLast_eq_next h
  all_goals obtain rfl := Option.some.inj (hf.symm.trans he)
  · have hnopd : f.pd = none := by
      obtain hnone | hnone := hnone
      · exact hs.pd_eq_none he (by simp [hdest, hnone])
      · exact hpd.trans hnone
    rw [show u = withRob op.rob f.completed s from hw, advanceUnit_withRob]
    exact hwritten.closeHole_complete hnew hu rfl (hi.fault hu) (fun p hp => nomatch hnopd.symm.trans hp) hmis'
  · have hready' : prfReady (withRob op.rob f.completed (advanceUnit c s)) p = some false :=
      (prfReady_advanceUnit c s p).trans hready
    rw [show u = delivered p v (withRob op.rob f.completed s) from hw, advanceUnit_delivered, advanceUnit_withRob]
    refine (hwritten.delivered v hnew (hpd.trans hp) hready').closeHole_complete hnew hu rfl (hi.fault hu) (fun p' hp' => ?_) hmis'
    obtain rfl := Option.some.inj ((hpd.trans hp).symm.trans hp')
    exact prfReady_delivered_self hready'

/-- The branch unit: the outcome is written into the entry, with the misprediction flag (R253, R254). -/
theorem branchLast_coupled {op : UnitLatch} {s u : State} (hs : Coupled s) (hop : lastOp (unitStages .br s) = some op)
    (h : branchLast op s = .next u) : Coupled (advanceUnit .br u) := by
  obtain ⟨hopen, e, he, ho, -, -, -, hi⟩ := hs.lastOp hop
  have hkind : isBranch e.opcode = true := by
    have hunit := (hs.unit .br op (mem_of_lastOp hop)).unit
    rw [ho]
    cases hop : op.opcode <;> simp_all [unitClass, isBranch]
  have hu := usesLsq_of_isBranch hkind
  have hnopd : e.pd = none := hs.pd_eq_none he (hasDest_of_isBranch hkind)
  have he' : robAt (advanceUnit .br s) op.rob = some e := he
  obtain ⟨f, taken, target, hf, -, rfl⟩ := branchLast_eq_next h
  obtain rfl := Option.some.inj (hf.symm.trans he)
  have hsame : f.SameInstr (f.resolved taken target) := ⟨rfl, rfl, rfl, rfl⟩
  have hmis : (f.resolved taken target).mispredicted = (isBranch f.opcode && mispredict (f.resolved taken target)) := by
    rw [hkind]
    rfl
  exact (hopen.withRob he' hsame).closeHole_complete (robAt_withRob_self he') hu rfl (hi.fault hu)
    (fun p hp => nomatch hnopd.symm.trans hp) hmis

theorem hasDest_of_isStoreOp {o : Opcode} (h : isStoreOp o = true) : hasDest o = false := by
  cases o <;> simp_all [isStoreOp, hasDest]

theorem LsqEntry.addressed_fields (q : LsqEntry) (a v : Word) :
    (q.addressed a v).rob = q.rob ∧ (q.addressed a v).isStore = q.isStore ∧ (q.addressed a v).pd = q.pd ∧
      (q.addressed a v).addrValid = true ∧ (q.addressed a v).addr = a := by
  cases h : q.isStore <;> simp [addressed, h]

theorem LsqEntry.addressed_of_load {q : LsqEntry} (h : q.isStore = false) (a v : Word) :
    q.addressed a v = { q with addr := a, addrValid := true } := by simp [addressed, h]

theorem LsqEntry.addressed_of_store {q : LsqEntry} (h : q.isStore = true) (a v : Word) :
    q.addressed a v = { q with addr := a, addrValid := true, value := v, done := true } := by simp [addressed, h]

section
variable {s : State} {e : RobEntry} {q : LsqEntry} (h : lsqAgrees s e q = true)
include h

/-- A memory operation whose address is not known has recorded no fault. -/
theorem fault_of_lsqAgrees (haddr : q.addrValid = false) : e.fault = false := by
  obtain ⟨-, -, -, -, hfault, -⟩ := lsqAgrees_iff.1 h
  simpa [haddr] using hfault

/-- A load takes an address in range. -/
theorem lsqAgrees_addressed_load {a : Word} (v : Word) (hload : q.isStore = false) (haddr : q.addrValid = false)
    (hin : inData s a = true) : lsqAgrees s e (q.addressed a v) = true := by
  have hnofault := fault_of_lsqAgrees h haddr
  obtain ⟨hstore, hpd, hdone, -⟩ := lsqAgrees_iff.1 h
  rw [LsqEntry.addressed_of_load hload]
  exact lsqAgrees_iff.2 ⟨hstore, hpd, hdone, by simp [hload], by simp [hin, hnofault], by simp [hnofault]⟩

/-- A store takes an address in range and is complete. -/
theorem lsqAgrees_addressed_store {a : Word} (v : Word) (hst : q.isStore = true) (haddr : q.addrValid = false)
    (hin : inData s a = true) : lsqAgrees s e.completed (q.addressed a v) = true := by
  have hnofault : e.completed.fault = false := fault_of_lsqAgrees (e := e) h haddr
  obtain ⟨hstore, hpd, -⟩ := lsqAgrees_iff.1 h
  rw [LsqEntry.addressed_of_store hst]
  exact lsqAgrees_iff.2 ⟨hstore, hpd, rfl, by simp [hst], by simp [hin, hnofault], by simp [hnofault]⟩

/-- An access out of range is recorded in both entries. -/
theorem lsqAgrees_faulted {a : Word} (v : Word) (hout : inData s a = false) :
    lsqAgrees s (e.faulted a) (q.addressed a v).finished = true := by
  obtain ⟨hstore, hpd, -⟩ := lsqAgrees_iff.1 h
  obtain ⟨-, hst, hpd', hvalid, haddr⟩ := q.addressed_fields a v
  refine lsqAgrees_iff.2 ⟨hst.trans hstore, hpd'.trans hpd, rfl, ?_, ?_, fun _ => ⟨haddr.symm, rfl⟩⟩
  · simp [LsqEntry.finished, hvalid]
  · simp [LsqEntry.finished, RobEntry.faulted, hvalid, haddr, hout]

end

/-- The memory unit: the LSQ entry takes its address; then a load in range waits for its access, and a store, or an access out of
range, is complete (R284, R290). -/
theorem memLast_coupled {op : UnitLatch} {s u : State} (hs : Coupled s) (hop : lastOp (unitStages .mem s) = some op)
    (h : memLast op s = .next u) : Coupled (advanceUnit .mem u) := by
  obtain ⟨hopen, e, he, ho, -, hc, hmis, hi⟩ := hs.lastOp hop
  have hunit := hs.unit .mem op (mem_of_lastOp hop)
  have hu : usesLsq e.opcode = true := by
    have hcls := hunit.unit
    rw [ho]
    cases hop : op.opcode <;> simp_all [unitClass, usesLsq]
  have hbr : isBranch e.opcode = false := isBranch_of_usesLsq hu
  obtain ⟨a, -, h⟩ := memLast_eq_next h
  obtain ⟨l, q, hl, hq, hcases⟩ := memRecord_eq_next h
  obtain ⟨hno, -⟩ | ⟨k, q', hk, -, hq', hqr, haddr⟩ := lsqLink_iff.1 hunit.lsq
  · exact nomatch hl.symm.trans hno
  obtain rfl : l = k := Option.some.inj (hl.symm.trans hk)
  obtain rfl : q = q' := Option.some.inj (hq.symm.trans hq')
  have hagrees := hi.lsq l q hq hqr
  obtain ⟨hstore, -, hdone, -⟩ := lsqAgrees_iff.1 hagrees
  have hkeep : ∀ v, (q.addressed a v).rob = op.rob := fun v => (q.addressed_fields a v).1.trans hqr
  have he' : robAt (advanceUnit .mem s) op.rob = some e := he
  have hq' : lsqAt (advanceUnit .mem s) l = some q := hq
  obtain ⟨hin, hload, rfl⟩ | ⟨f, hf, hcases⟩ := hcases
  · refine (hopen.withLsq (q' := q.addressed a (op.val 1)) hq' hqr (hkeep _)).closeHole_memory he' (lsqAt_withLsq_self hq') (hkeep _)
      (lsqAgrees_addressed_load (v := op.val 1) hagrees hload haddr hin) ?_ hu hi.dest hi.branch
    simp [LsqEntry.addressed_of_load hload, LsqEntry.waiting, hload, hdone]
  obtain rfl := Option.some.inj (hf.symm.trans he)
  obtain ⟨hin, hst, rfl⟩ | ⟨hout, rfl⟩ := hcases
  · refine ((hopen.withRob he' f.sameInstr_completed).withLsq (q' := q.addressed a (op.val 1)) hq' hqr (hkeep _)).closeHole_memory
      (robAt_withRob_self he') (lsqAt_withLsq_self hq') (hkeep _)
      (lsqAgrees_addressed_store (v := op.val 1) hagrees hst haddr hin) ?waits hu ?dest ?branch
    case waits => simp [LsqEntry.addressed_of_store hst, LsqEntry.waiting, RobEntry.completed]
    case dest =>
      have hnopd := hs.pd_eq_none he (hasDest_of_isStoreOp (hstore.symm.trans hst))
      exact fun p hp => nomatch hnopd.symm.trans hp
    case branch => simp [RobEntry.completed, hmis, hbr]
  · have hsame : f.SameInstr (f.faulted a) := ⟨rfl, rfl, rfl, rfl⟩
    refine ((hopen.withRob he' hsame).withLsq (q' := (q.addressed a (op.val 1)).finished) hq' hqr (hkeep _)).closeHole_memory
      (robAt_withRob_self he') (lsqAt_withLsq_self hq') (hkeep _) (lsqAgrees_faulted (v := op.val 1) hagrees hout) ?waits hu ?dest ?branch
    case waits => simp [LsqEntry.finished, LsqEntry.waiting, RobEntry.faulted]
    case dest =>
      intro p hp
      have hready : prfReady s p = some (f.complete && !f.fault) := hi.dest p hp
      rw [hc] at hready
      exact hready
    case branch => simp [RobEntry.faulted, hmis, hbr]

theorem evalUnit_coupled {c : UnitClass} {s t : State} (hs : Coupled s) (h : evalUnit c s = .next t) : Coupled t := by
  obtain ⟨hnone, rfl⟩ | ⟨op, u, hop, hu, rfl⟩ := evalUnit_eq_next h
  · have := hs.advanceUnit c
    rwa [lastRob, hnone] at this
  · cases c with
    | mem => exact memLast_coupled hs hop hu
    | br => exact branchLast_coupled hs hop hu
    | mul => exact aluLast_coupled hs hop (.inl rfl) hu
    | int => exact aluLast_coupled hs hop (.inr rfl) hu

end Sys2Proof.Machine

/-! ## Issue and dispatch keep the coupled clauses

SUPPORT. An issued entry moves from the issue queue into its unit; a dispatched instruction is the youngest of the ROB, the LSQ and the
branch stack (R158 to R163, R182, R183). -/

namespace Sys2Proof.Machine

/-! ### Issue -/

/-- The selected entry stands in the slot that is named, and satisfies the condition (R182). -/
theorem oldestOf_eq_some {ok : IqEntry → Bool} {age : IqEntry → Nat} {k q : Nat} {l : List (Option IqEntry)} {e : IqEntry}
    (h : oldestOf ok age k l = some (q, e)) : k ≤ q ∧ l[q - k]? = some (some e) ∧ ok e = true := by
  induction l generalizing k q e with
  | nil => cases h
  | cons y l ih =>
    have later (q' : Nat) (e' : IqEntry) (h' : oldestOf ok age (k + 1) l = some (q', e')) :
        k ≤ q' ∧ (y :: l)[q' - k]? = some (some e') ∧ ok e' = true := by
      obtain ⟨hle, hget, hok⟩ := ih h'
      exact ⟨by omega, by rwa [show q' - k = q' - (k + 1) + 1 by omega, List.getElem?_cons_succ], hok⟩
    cases y with
    | none => exact later _ _ h
    | some x =>
      rw [oldestOf] at h
      split at h
      · rename_i hx
        split at h
        · cases h
          exact ⟨le_refl _, by simp, hx⟩
        · rename_i hrest
          split at h
          · cases h
            exact later _ _ hrest
          · cases h
            exact ⟨le_refl _, by simp, hx⟩
      · exact later _ _ h

/-- Emptying a slot takes its entry away and no other. -/
theorem perm_filterMap_set_none {α : Type} {l : List (Option α)} {i : Nat} {a : α} (h : l[i]? = some (some a)) :
    (l.filterMap id).Perm (a :: (l.set i none).filterMap id) := by
  obtain ⟨hlt, hget⟩ := List.getElem?_eq_some_iff.1 h
  have hsplit : l = l.take i ++ some a :: l.drop (i + 1) := by
    rw [← hget, ← List.drop_eq_getElem_cons hlt, List.take_append_drop]
  rw [List.set_eq_take_append_cons_drop, if_pos hlt]
  conv_lhs => rw [hsplit]
  simp only [List.filterMap_append, List.filterMap_cons, id_eq]
  exact List.perm_middle

theorem unitStages_withIq (c : UnitClass) (l : List (Option IqEntry)) (s : State) :
    unitStages c { s with iq := l } = unitStages c s := by cases c <;> rfl

theorem issueClass_coupled {c : UnitClass} {s t : State} (hshape : Shape s) (hs : Coupled s) (h : issueClass c s = .next t) :
    Coupled t := by
  obtain ⟨rfl, -⟩ | ⟨q, e, vs, hfree, hsel, hread, rfl⟩ := issueClass_eq_next h
  · exact hs
  obtain ⟨-, hget, hok⟩ := oldestOf_eq_some hsel
  rw [Nat.sub_zero] at hget
  simp only [Bool.and_eq_true, decide_eq_true_eq] at hok
  have he : IqEntryOk s e := hs.iq e (mem_iqEntries.2 (List.mem_of_getElem? hget))
  have hvals : vs.length = e.src.length := by simpa using (congrArg List.length (readOperands_eq_ok.1 hread)).symm
  obtain ⟨i, m, b, u, hframe⟩ := setUnit_frame c ((unitStages c s).set 0 (some (issueLatch e vs))) { s with iq := s.iq.set q none }
  have hstage : (e.rob :: stageRobs (unitStages c s)).Perm (stageRobs ((unitStages c s).set 0 (some (issueLatch e vs)))) := by
    obtain ⟨x, rest, hstages⟩ : ∃ x rest, unitStages c s = x :: rest := List.exists_cons_of_ne_nil fun hnil => by
      obtain ⟨-, -, -, -, -, hint, hmul, hbru, hmem, -⟩ := hshape
      cases c <;> simp_all [unitStages, Config.intDepth, Config.mulDepth, Config.brDepth, Config.memDepth]
    have hx : x = none := by simpa [stage1Free, hstages] using hfree
    rw [hstages, hx]
    exact .refl _
  rw [← unitStages_withIq c (s.iq.set q none) s] at hstage
  have hmove := flightRobs_setUnit (s := { s with iq := s.iq.set q none }) (xs := [e.rob]) (ys := []) hstage
  have hiq : (flightRobs s).Perm ([e.rob] ++ flightRobs { s with iq := s.iq.set q none }) :=
    ((perm_filterMap_set_none hget).map IqEntry.rob).append_right _
  refine CoupledBut.of_flight (hole := []) hs (by rw [hframe]) ?_ (fun c' op hop => ?_) (hiq.trans hmove) (by simp)
  · rw [hframe]
    intro x hx
    refine mem_iqEntries.2 ((List.mem_or_eq_of_mem_set (mem_iqEntries.1 hx)).resolve_right (by simp))
  · by_cases hc : c' = c
    · subst hc
      rw [unitStages_setUnit_self] at hop
      obtain hop | hop := List.mem_or_eq_of_mem_set hop
      · exact hs.unit _ op hop
      · obtain rfl := Option.some.inj hop
        exact ⟨he.rob, he.lsq, (congrArg (arity e.opcode) hvals).trans he.arity, hok.1⟩
    · rw [unitStages_setUnit_ne hc, unitStages_withIq] at hop
      exact hs.unit c' op hop

end Sys2Proof.Machine

/-! ## Dispatch keeps the coupled clauses

SUPPORT. A dispatched instruction is the youngest of the ROB, the LSQ and the branch stack, its destination was free, and its sources
are looked up in the map before it (R157 to R163). -/

namespace Sys2Proof.Machine

/-! ### Renaming one more instruction -/

theorem replayMap_append (m : List Nat) (es : List RobEntry) (e : RobEntry) :
    replayMap m (es ++ [e]) = e.mapAfter (replayMap m es) := by
  induction es generalizing m with
  | nil => rfl
  | cons x es ih => exact ih _

theorem replayZsrc_append (z : Option Nat) (es : List RobEntry) (e : RobEntry) :
    replayZsrc z (es ++ [e]) = e.zsrcAfter (replayZsrc z es) := by
  induction es generalizing z with
  | nil => rfl
  | cons x es ih => exact ih _

/-- The youngest instruction's previous mapping and checkpoint are those of the map before it (R133, R135). -/
theorem renameChain_append {m : List Nat} {z : Option Nat} {es : List RobEntry} {cks : List Checkpoint} {e : RobEntry} (r : Nat)
    (h : renameChain m z es cks = true) (hprev : e.pd.isSome = true → e.prev = (replayMap m es)[e.rd]?) :
    renameChain m z (es ++ [e]) (cks ++ if isBranch e.opcode then [⟨replayMap m es, replayZsrc z es, r⟩] else []) = true := by
  induction es generalizing m z cks with
  | nil =>
    obtain rfl : cks = [] := by simpa [renameChain] using h
    have hprev : e.pd = none ∨ e.prev = m[e.rd]? := or_iff_not_imp_left.2 fun hn => hprev (Option.isSome_iff_ne_none.2 hn)
    cases hb : isBranch e.opcode <;> simpa [renameChain, hb, replayMap, replayZsrc] using hprev
  | cons x es ih =>
    simp only [List.cons_append, renameChain, Bool.and_eq_true] at h ⊢
    obtain ⟨hx, h⟩ := h
    refine ⟨hx, ?_⟩
    split at h
    · rename_i hbr
      rw [if_pos hbr]
      cases cks with
      | nil => cases h
      | cons ck cks =>
        simp only [List.cons_append, Bool.and_eq_true] at h ⊢
        obtain ⟨hck, h⟩ := h
        exact ⟨hck, ih h hprev⟩
    · rename_i hbr
      rw [if_neg hbr]
      exact ih h hprev

/-- The zero-condition source is a register of the front map (R23, R26). -/
theorem mem_replayMap_of_replayZsrc {es : List RobEntry} {m : List Nat} {z : Option Nat} {p : Nat}
    (hrd : ∀ e ∈ es, e.pd.isSome = true → e.rd < m.length) (hz : ∀ q, z = some q → q ∈ m) (h : replayZsrc z es = some p) :
    p ∈ replayMap m es := by
  induction es generalizing m z with
  | nil => exact hz p h
  | cons e es ih =>
    refine ih (fun x hx hp => ?_) (fun q hq => ?_) h
    · rw [RobEntry.mapAfter_length]
      exact hrd x (List.mem_cons_of_mem _ hx) hp
    · cases hpd : e.pd with
      | none =>
        rw [RobEntry.zsrcAfter, hpd] at hq
        rw [RobEntry.mapAfter, hpd]
        exact hz q hq
      | some p' =>
        rw [RobEntry.zsrcAfter, hpd] at hq
        obtain rfl := Option.some.inj hq
        rw [RobEntry.mapAfter, hpd]
        exact List.mem_set (hrd e List.mem_cons_self (by simp [hpd])) p'

theorem destsOf_append (R : List (Nat × RobEntry)) (x : Nat × RobEntry) : destsOf (R ++ [x]) = destsOf R ++ x.2.pd.toList := by
  cases h : x.2.pd <;> simp [destsOf, h]

/-! ### The issue queue -/

theorem perm_insertIq {l : List (Option IqEntry)} (e : IqEntry) (h : l.all Option.isSome = false) :
    ((insertIq e l).filterMap id).Perm (e :: l.filterMap id) := by
  induction l with
  | nil => cases h
  | cons x l ih =>
    cases x with
    | none => exact .refl _
    | some y =>
      have hl := ih (by simpa using h)
      simp only [insertIq, List.filterMap_cons, id_eq]
      exact (hl.cons y).trans (.swap e y _)

/-! ### The sources -/

/-- Each register looked up is one of the front map, with its valid bit (R131, R157). -/
theorem lookupAll_eq_some {s : State} {is : List Nat} {ts : List SrcTag} (h : lookupAll s is = some ts) :
    ts.length = is.length ∧ ∀ t ∈ ts, prfReady s t.p = some t.ready ∧ t.p ∈ s.rat := by
  induction is generalizing ts with
  | nil =>
    obtain rfl := Option.some.inj h
    simp
  | cons i is ih =>
    rw [lookupAll] at h
    split at h
    · rename_i x xs hx hxs
      obtain rfl := Option.some.inj h
      obtain ⟨hlen, hall⟩ := ih hxs
      refine ⟨by simp [hlen], List.forall_mem_cons.2 ⟨?_, hall⟩⟩
      unfold ratLookup at hx
      split at hx
      · rename_i p hp
        obtain ⟨b, hb, rfl⟩ := Option.map_eq_some_iff.1 hx
        exact ⟨hb, List.mem_of_getElem? hp⟩
      · cases hx
    · cases h

theorem CoupledBut.mem_owned_of_mem_rat {hole : List Nat} {s : State} (h : CoupledBut hole s) {p : Nat} (hp : p ∈ s.rat) :
    p ∈ owned s := by
  obtain ⟨-, -, -, -, hrat, -⟩ := h.rename
  rw [owned_eq, List.mem_append]
  exact mem_of_mem_replayMap (hrat ▸ hp)

/-- The front map is the replay of the ROB, and the zero-condition source is in it (R47 (g)). -/
theorem CoupledBut.zsrc_mem_rat {hole : List Nat} {s : State} (hshape : Shape s) (h : CoupledBut hole s) {p : Nat}
    (hp : s.zsrc = some p) : p ∈ s.rat := by
  obtain ⟨-, -, -, hrrat, -⟩ := hshape
  obtain ⟨-, -, -, hentries, hrat, -, z, hz, hzsrc, -⟩ := h.rename
  rw [hrat]
  refine mem_replayMap_of_replayZsrc (fun e he hpd => ?_) (fun q hq => ?_) (hzsrc.symm.trans hp)
  · obtain ⟨x, hx, rfl⟩ := List.mem_map.1 he
    obtain ⟨hdest, -, hlt⟩ := hentries x hx
    rw [hrrat]
    exact hlt (hdest ▸ hpd)
  · simpa [hq] using hz

theorem sourceTags_eq_some {hole : List Nat} {d : DrLatch} {s : State} {src : List SrcTag} (hshape : Shape s)
    (hs : CoupledBut hole s) (h : sourceTags d s = some src) :
    arity d.opcode src.length = true ∧ ∀ t ∈ src, prfReady s t.p = some t.ready ∧ t.p ∈ s.rat := by
  unfold sourceTags at h
  split at h
  · rename_i hz
    have hkind : ∀ n, n = 0 ∨ n = 1 → arity d.opcode n = true := by
      cases ho : d.opcode <;> simp_all [readsZero, arity]
    unfold ratLookupZ at h
    split at h
    · obtain rfl := Option.some.inj h
      exact ⟨hkind 0 (.inl rfl), by simp⟩
    · rename_i p hp
      obtain ⟨b, hb, rfl⟩ := Option.map_eq_some_iff.1 h
      exact ⟨hkind 1 (.inr rfl), by simpa [hb] using hs.zsrc_mem_rat hshape hp⟩
  · rename_i hz
    obtain ⟨hlen, hall⟩ := lookupAll_eq_some h
    refine ⟨?_, hall⟩
    rw [hlen]
    cases ho : d.opcode <;> simp_all [readsZero, arity, srcRegs]

/-! ### The views after a dispatch -/

theorem dispatchWith_keepsCommitted (d : DrLatch) (src : List SrcTag) (s : State) : KeepsCommitted s (dispatchWith d src s) := by
  rw [dispatchWith_eq]
  constructor <;> rfl

theorem bis_dispatchWith (d : DrLatch) (src : List SrcTag) (s : State) :
    (dispatchWith d src s).bis = s.bis ++ if isBranch d.opcode then [⟨s.rat, s.zsrc, s.robTail⟩] else [] := by
  rw [dispatchWith_eq]
  cases isBranch d.opcode with
  | false => exact (List.append_nil _).symm
  | true => rfl

section
variable {d : DrLatch} {src : List SrcTag} {s : State} (hs : Coupled s) (hroom : stallReason d.opcode s = .none)
include hs hroom

theorem rob_not_full : s.robCount < s.cfg.robSize := by
  obtain ⟨-, hne, -⟩ := stallReason_eq_none hroom
  exact lt_of_le_of_ne hs.queues.rob.count hne

theorem lsq_not_full (hu : usesLsq d.opcode = true) : s.lsqCount < s.cfg.lsqSize := by
  obtain ⟨-, -, -, hne, -⟩ := stallReason_eq_none hroom
  exact lt_of_le_of_ne hs.queues.lsq.count (hne hu)

theorem robInOrder_dispatchWith : robInOrder (dispatchWith d src s) = robInOrder s ++ [(s.robTail, newRob d s)] := by
  rw [dispatchWith_eq, robInOrder_eq, hs.queues.robTail]
  exact ringEntries_push hs.queues.rob (rob_not_full hs hroom) _

theorem lsqInOrder_dispatchWith : lsqInOrder (dispatchWith d src s) =
    lsqInOrder s ++ if usesLsq d.opcode then [(s.lsqTail, newLsq d s)] else [] := by
  rw [dispatchWith_eq, lsqInOrder_eq]
  cases hu : usesLsq d.opcode with
  | false => exact (List.append_nil _).symm
  | true =>
    rw [hs.queues.lsqTail]
    exact ringEntries_push hs.queues.lsq (lsq_not_full hs hroom hu) _

theorem queuesOk_dispatchWith : QueuesOk (dispatchWith d src s) := by
  have hrob := hs.queues.rob.push (rob_not_full hs hroom) (newRob d s)
  rw [← hs.queues.robTail] at hrob
  rw [dispatchWith_eq]
  refine ⟨hrob, ?_, ?_, ?_⟩
  · simp only [hs.queues.robTail]
    rw [Nat.mod_add_mod, Nat.add_assoc]
  · cases hu : usesLsq d.opcode with
    | false => exact hs.queues.lsq
    | true =>
      have hlsq := hs.queues.lsq.push (lsq_not_full hs hroom hu) (newLsq d s)
      rw [← hs.queues.lsqTail] at hlsq
      exact hlsq
  · cases hu : usesLsq d.opcode with
    | false => exact hs.queues.lsqTail
    | true =>
      simp only [hs.queues.lsqTail, if_true]
      rw [Nat.mod_add_mod, Nat.add_assoc]

theorem robAt_dispatchWith {r : Nat} {e : RobEntry} :
    robAt (dispatchWith d src s) r = some e ↔ robAt s r = some e ∨ (r = s.robTail ∧ e = newRob d s) := by
  rw [← mem_robInOrder (queuesOk_dispatchWith hs hroom) (x := (r, e)), robInOrder_dispatchWith hs hroom, List.mem_append,
    mem_robInOrder hs.queues, List.mem_singleton, Prod.mk.injEq]

theorem lsqAt_dispatchWith {l : Nat} {q : LsqEntry} : lsqAt (dispatchWith d src s) l = some q ↔
    lsqAt s l = some q ∨ (usesLsq d.opcode = true ∧ l = s.lsqTail ∧ q = newLsq d s) := by
  rw [← mem_lsqInOrder (queuesOk_dispatchWith hs hroom) (x := (l, q)), lsqInOrder_dispatchWith hs hroom, List.mem_append,
    mem_lsqInOrder hs.queues]
  cases usesLsq d.opcode <;> simp

theorem robAt_robTail : robAt s s.robTail = none := by
  rw [hs.queues.robTail]
  exact hs.queues.rob.tail_free (rob_not_full hs hroom)

omit hs in
theorem perm_flightRobs_dispatchWith : (flightRobs (dispatchWith d src s)).Perm (s.robTail :: flightRobs s) := by
  obtain ⟨-, -, hiq, -⟩ := stallReason_eq_none hroom
  rw [dispatchWith_eq]
  exact ((perm_insertIq (newIq d src s) hiq).map IqEntry.rob).append_right _

omit hs in
theorem mem_iqEntries_dispatchWith {x : IqEntry} : x ∈ iqEntries (dispatchWith d src s) ↔ x = newIq d src s ∨ x ∈ iqEntries s := by
  obtain ⟨-, -, hiq, -⟩ := stallReason_eq_none hroom
  rw [dispatchWith_eq]
  exact (perm_insertIq (newIq d src s) hiq).mem_iff.trans List.mem_cons

/-- Up to any instruction, the map is what it was; the map before the new one is the front map. -/
theorem mapBefore_dispatchWith : (∀ r e, robAt s r = some e → mapBefore (dispatchWith d src s) r = mapBefore s r) ∧
    mapBefore (dispatchWith d src s) s.robTail = s.rat := by
  have hq := queuesOk_dispatchWith (src := src) hs hroom
  have hR := robInOrder_dispatchWith (src := src) hs hroom
  have hrrat := (dispatchWith_keepsCommitted d src s).rrat
  obtain ⟨-, -, -, -, hrat, -⟩ := hs.rename
  constructor
  · intro r e he
    obtain ⟨xs, ys, hsplit⟩ := List.append_of_mem ((mem_robInOrder hs.queues (x := (r, e))).2 he)
    have hnew : robInOrder (dispatchWith d src s) = xs ++ (r, e) :: (ys ++ [(s.robTail, newRob d s)]) := by simp [hR, hsplit]
    rw [mapBefore_of_append hq hnew, mapBefore_of_append hs.queues hsplit, hrrat]
  · rw [mapBefore_of_append hq (x := (s.robTail, newRob d s)) hR, hrrat, ← hrat]

/-! ### The new destination -/

omit hroom in
/-- The register that `alloc()` chooses exists and is not in use (R139, R140). -/
theorem pickFree_not_owned (hshape : Shape s) {p : Nat} (hp : pickFree s = some p) : p < s.cfg.numPhys ∧ p ∉ owned s := by
  obtain ⟨-, hfree, -⟩ := hshape
  obtain ⟨-, -, hpool, -⟩ := hs.rename
  have hget := (pickFree_eq_some.1 hp).1
  have hlt : p < s.cfg.numPhys := hfree ▸ (List.getElem?_eq_some_iff.1 hget).1
  refine ⟨hlt, ?_⟩
  rw [hpool p hlt] at hget
  exact of_decide_eq_true (Option.some.inj hget)

omit hs hroom in
theorem destReg_eq_some {p : Nat} (hp : destReg d s = some p) : hasDest d.opcode = true ∧ pickFree s = some p := by
  unfold destReg at hp
  split at hp
  · exact ⟨‹_›, hp⟩
  · cases hp

omit hroom in
/-- A register in use keeps its valid bit; the new destination has none yet (R139). -/
theorem prfReady_dispatchWith (hshape : Shape s) :
    (∀ p ∈ owned s, prfReady (dispatchWith d src s) p = prfReady s p) ∧
      ∀ p, destReg d s = some p → prfReady (dispatchWith d src s) p = some false := by
  rw [dispatchWith_eq]
  cases hd : destReg d s with
  | none => exact ⟨fun _ _ => rfl, fun _ h => nomatch h⟩
  | some p =>
    obtain ⟨hlt, hno⟩ := pickFree_not_owned hs hshape (destReg_eq_some hd).2
    obtain ⟨hprf, -⟩ := hshape
    constructor
    · intro p' hp'
      have hne : p ≠ p' := fun heq => hno (heq ▸ hp')
      simp [prfReady, hne]
    · intro p' hp'
      obtain rfl := Option.some.inj hp'
      simp [prfReady, hprf, hlt, PhysReg.invalidate]

/-- The destination of the new instruction is a fresh owner; the map, `zsrc` and the checkpoints are replayed with it (R47 (f), (g)). -/
theorem renameOk_dispatchWith (hshape : Shape s) (hrd : hasDest d.opcode = true → d.rd < s.cfg.numArch) :
    RenameOk (dispatchWith d src s) := by
  have hR := robInOrder_dispatchWith (src := src) hs hroom
  have hk := dispatchWith_keepsCommitted d src s
  have howned : owned (dispatchWith d src s) = owned s ++ (destReg d s).toList := by
    rw [owned_eq, owned_eq, hR, hk.rrat, destsOf_append, ← List.append_assoc]
    rfl
  have hpick : ∀ p, destReg d s = some p → p < s.cfg.numPhys ∧ p ∉ owned s := fun p hp =>
    pickFree_not_owned hs hshape (destReg_eq_some hp).2
  obtain ⟨hgrant, -⟩ := stallReason_eq_none hroom
  obtain ⟨hprf, hfreelen, hratlen, -⟩ := hshape
  obtain ⟨hnodup, hbound, hpool, hentries, hrat, hbranches, z, hz, hzsrc, hchain⟩ := hs.rename
  rw [RenameOk, howned, hR, hk.cfg, hk.rrat]
  refine ⟨?nodup, ?bound, ?pool, ?entries, ?map, ?branches, z, hz, ?zsrc, ?chain⟩
  case nodup =>
    refine hnodup.append ?_ fun p hp hp' => (hpick p (Option.mem_toList.1 hp')).2 hp
    cases destReg d s <;> simp
  case bound =>
    intro p hp
    obtain hp | hp := List.mem_append.1 hp
    · exact hbound p hp
    · exact (hpick p (Option.mem_toList.1 hp)).1
  case pool =>
    intro p hp
    rw [dispatchWith_eq]
    cases hd : destReg d s with
    | none => simpa using hpool p hp
    | some p' =>
      by_cases heq : p' = p
      · subst heq
        simp [hfreelen, hp]
      · simpa [heq, Ne.symm heq] using hpool p hp
  case entries =>
    intro x hx
    obtain hx | hx := List.mem_append.1 hx
    · exact hentries x hx
    · obtain rfl := List.mem_singleton.1 hx
      change (destReg d s).isSome = hasDest d.opcode ∧ (destPrev d s).isSome = hasDest d.opcode ∧
        (hasDest d.opcode = true → d.rd < s.cfg.numArch)
      cases hd : hasDest d.opcode with
      | false => simp [destReg, destPrev, hd]
      | true =>
        obtain ⟨p, hp⟩ := hgrant hd
        simp [destReg, destPrev, hd, hp, hratlen, hrd hd]
  case map =>
    rw [dispatchWith_eq, List.map_append, List.map_singleton, replayMap_append, ← hrat]
  case branches =>
    rw [bis_dispatchWith, List.filter_append, List.map_append, List.map_append, ← hbranches]
    change _ = _ ++ ([(s.robTail, newRob d s)].filter fun _ => isBranch d.opcode).map Prod.fst
    cases isBranch d.opcode <;> simp
  case zsrc =>
    rw [dispatchWith_eq, List.map_append, List.map_singleton, replayZsrc_append, ← hzsrc]
  case chain =>
    have hprev : (newRob d s).pd.isSome = true → (newRob d s).prev = (replayMap s.rrat ((robInOrder s).map Prod.snd))[d.rd]? := by
      intro hp
      obtain ⟨p, hp⟩ := Option.isSome_iff_exists.1 hp
      rw [← hrat]
      exact if_pos (destReg_eq_some hp).1
    have happend := renameChain_append s.robTail hchain hprev
    rw [← hrat, ← hzsrc] at happend
    rw [bis_dispatchWith, List.map_append]
    exact happend

theorem robTail_fresh (e : RobEntry) : robAt s s.robTail ≠ some e := by
  simp [robAt_robTail hs hroom]

theorem robTail_not_mem_flightRobs : s.robTail ∉ flightRobs s := fun hmem => by
  obtain ⟨e, he, -⟩ := hs.robAt_of_mem_flightRobs hmem
  exact robTail_fresh hs hroom e he

omit hs hroom in
theorem lsqAgrees_dispatchWith (e : RobEntry) (q : LsqEntry) : lsqAgrees (dispatchWith d src s) e q = lsqAgrees s e q := by
  rw [lsqAgrees, lsqAgrees, inData, inData, (dispatchWith_keepsCommitted d src s).cfg]

omit hs hroom in
theorem unitStages_dispatchWith (c : UnitClass) : unitStages c (dispatchWith d src s) = unitStages c s := by
  rw [dispatchWith_eq]
  cases c <;> rfl

theorem keepsInstr_dispatchWith (r : Nat) : KeepsInstr r s (dispatchWith d src s) :=
  ⟨fun _ he => (robAt_dispatchWith hs hroom).2 (.inl he), fun _ _ hl _ => (lsqAt_dispatchWith hs hroom).2 (.inl hl)⟩

/-- Of the instructions already in the ROB a dispatch changes nothing. -/
theorem instrOk_dispatchWith_old (hshape : Shape s) {r : Nat} {e : RobEntry} (he : robAt s r = some e) :
    InstrOk (dispatchWith d src s) r e := by
  have hold := hs.instr r e he List.not_mem_nil
  have hne : r ≠ s.robTail := fun heq => robTail_fresh hs hroom e (heq ▸ he)
  have hlsq : ∀ l q, q.rob = r → (lsqAt (dispatchWith d src s) l = some q ↔ lsqAt s l = some q) := fun l q hr => by
    rw [lsqAt_dispatchWith hs hroom, or_iff_left]
    rintro ⟨-, -, rfl⟩
    exact hne hr.symm
  refine ⟨?complete, fun l q hl hr => ?lsq, hold.fault, fun p hp => ?dest, hold.branch⟩
  case complete =>
    rw [hold.complete, (perm_flightRobs_dispatchWith hroom).mem_iff, List.mem_cons, or_iff_right hne]
    refine or_congr Iff.rfl (exists_congr fun l => exists_congr fun q => ?_)
    exact ⟨fun ⟨hl, hr, hw⟩ => ⟨(hlsq l q hr).2 hl, hr, hw⟩, fun ⟨hl, hr, hw⟩ => ⟨(hlsq l q hr).1 hl, hr, hw⟩⟩
  case lsq => exact (lsqAgrees_dispatchWith e q).trans (hold.lsq l q ((hlsq l q hr).1 hl) hr)
  case dest =>
    refine ((prfReady_dispatchWith hs hshape).1 p ?_).trans (hold.dest p hp)
    rw [owned_eq]
    exact List.mem_append_right _ (List.mem_filterMap.2 ⟨(r, e), (mem_robInOrder hs.queues).2 he, hp⟩)

/-- The new instruction waits in the issue queue, with no result and no address. -/
theorem instrOk_dispatchWith_new (hshape : Shape s) : InstrOk (dispatchWith d src s) s.robTail (newRob d s) where
  complete := iff_of_true rfl (.inl ((perm_flightRobs_dispatchWith hroom).mem_iff.2 List.mem_cons_self))
  lsq l q hl hr := by
    obtain hl | ⟨-, -, rfl⟩ := (lsqAt_dispatchWith hs hroom).1 hl
    · obtain ⟨e, he, -⟩ := hs.order.owner hs.queues hl
      exact absurd (hr ▸ he) (robTail_fresh hs hroom e)
    · exact lsqAgrees_iff.2 ⟨rfl, rfl, rfl, by simp [newLsq], rfl, fun h => nomatch h⟩
  fault _ := rfl
  dest := (prfReady_dispatchWith hs hshape).2
  branch := by simp [newRob, dispatchedEntry]

/-- The entry of the new instruction in the issue queue: its sources are those of the map before it (R157, R161). -/
theorem iqEntryOk_newIq (hshape : Shape s) (hsrc : sourceTags d s = some src) :
    IqEntryOk (dispatchWith d src s) (newIq d src s) := by
  obtain ⟨harity, htags⟩ := sourceTags_eq_some hshape hs hsrc
  refine ⟨robLink_iff.2 ⟨_, (robAt_dispatchWith hs hroom).2 (.inr ⟨rfl, rfl⟩), rfl, rfl, rfl⟩, lsqLink_iff.2 ?link, harity,
    fun t ht => ?src⟩
  case link =>
    cases hu : usesLsq d.opcode with
    | false => exact .inl ⟨by simp [newIq, hu], hu⟩
    | true =>
      exact .inr ⟨s.lsqTail, newLsq d s, by simp [newIq, hu], hu, (lsqAt_dispatchWith hs hroom).2 (.inr ⟨hu, rfl, rfl⟩), rfl, rfl⟩
  case src =>
    obtain ⟨hr, hmem⟩ := htags t ht
    have hmap : t.p ∈ mapBefore (dispatchWith d src s) s.robTail := (mapBefore_dispatchWith hs hroom).2 ▸ hmem
    exact ⟨((prfReady_dispatchWith hs hshape).1 t.p (hs.mem_owned_of_mem_rat hmem)).trans hr, hmap⟩

theorem lsqOrder_dispatchWith : LsqOrder (dispatchWith d src s) := by
  have horder := hs.order
  rw [LsqOrder] at horder ⊢
  rw [robInOrder_dispatchWith hs hroom, lsqInOrder_dispatchWith hs hroom, List.map_append, List.filter_append, List.map_append, horder]
  change _ = _ ++ ([(s.robTail, newRob d s)].filter fun _ => usesLsq d.opcode).map Prod.fst
  cases usesLsq d.opcode <;> simp [newLsq]

theorem dispatchWith_coupled (hshape : Shape s) (hrd : hasDest d.opcode = true → d.rd < s.cfg.numArch)
    (hsrc : sourceTags d s = some src) : Coupled (dispatchWith d src s) where
  queues := queuesOk_dispatchWith hs hroom
  rename := renameOk_dispatchWith hs hroom hshape hrd
  order := lsqOrder_dispatchWith hs hroom
  committed p hp := by
    rw [(dispatchWith_keepsCommitted d src s).rrat] at hp
    rw [(prfReady_dispatchWith hs hshape).1 p (List.mem_append_left _ hp)]
    exact hs.committed p hp
  iq x hx := by
    obtain rfl | hx := (mem_iqEntries_dispatchWith hroom).1 hx
    · exact iqEntryOk_newIq hs hroom hshape hsrc
    · obtain ⟨e, he, -⟩ := robLink_iff.1 (hs.iq x hx).rob
      exact (hs.iq x hx).of_keeps (keepsInstr_dispatchWith hs hroom _) ((mapBefore_dispatchWith hs hroom).1 _ e he) fun p hp =>
        (prfReady_dispatchWith hs hshape).1 p (mem_owned_of_mem_mapBefore hp)
  unit c op hop := (hs.unit c op (unitStages_dispatchWith c ▸ hop)).of_keeps (keepsInstr_dispatchWith hs hroom _)
  nodup := (perm_flightRobs_dispatchWith hroom).nodup_iff.2 (List.nodup_cons.2 ⟨robTail_not_mem_flightRobs hs hroom, hs.nodup⟩)
  instr r e he _ := by
    obtain he | ⟨rfl, rfl⟩ := (robAt_dispatchWith hs hroom).1 he
    · exact instrOk_dispatchWith_old hs hroom hshape he
    · exact instrOk_dispatchWith_new hs hroom hshape

end

end Sys2Proof.Machine

/-! ## Commit keeps the invariant

SUPPORT. A retirement takes the head off the ROB and, for a memory operation, the LSQ, and moves its destination into the retirement
map; a flush leaves an empty machine whose front map is the retirement map (R323 to R328). -/

namespace Sys2Proof.Machine

/-! ### The state after a retirement -/

/-- The engine after the head entry `e` has retired, given what becomes of the data memory and of the BTB (R323 to R326). -/
def retiredHead (e : RobEntry) (m : Memory) (b : List (Option BtbEntry)) (rr n : Nat) (s : State) : State :=
  { s with
    free := e.prev.elim s.free fun p => s.free.set p true
    rrat := e.mapAfter s.rrat
    rob := s.rob.set s.robHead none
    robHead := (s.robHead + 1) % s.cfg.robSize
    robCount := s.robCount - 1
    lsq := if usesLsq e.opcode then s.lsq.set s.lsqHead none else s.lsq
    lsqHead := if usesLsq e.opcode then (s.lsqHead + 1) % s.cfg.lsqSize else s.lsqHead
    lsqCount := if usesLsq e.opcode then s.lsqCount - 1 else s.lsqCount
    btb := b
    btbRr := rr
    victimDraws := n
    bis := if isBranch e.opcode then s.bis.tail else s.bis
    dmem := m
    committed := s.committed + 1
    halted := s.halted || decide (e.opcode = .halt) }

theorem commitDest_eq {e : RobEntry} {s a : State} (hpd : e.pd.isSome = hasDest e.opcode) (hprev : e.prev.isSome = hasDest e.opcode)
    (h : commitDest e s = .next a) :
    a = { s with rrat := e.mapAfter s.rrat, free := e.prev.elim s.free fun p => s.free.set p true } := by
  obtain ⟨hd, rfl⟩ | ⟨pd, prev, -, hp, hq, -, -, rfl⟩ := commitDest_eq_next h
  · rw [hd, Option.isSome_eq_false_iff, Option.isNone_iff_eq_none] at hpd hprev
    simp [RobEntry.mapAfter, hpd, hprev]
  · simp [RobEntry.mapAfter, hp, hq]

theorem commitMem_eq {e : RobEntry} {s b : State} (h : commitMem e s = .next b) : b = { s with
    dmem := b.dmem
    lsq := if usesLsq e.opcode then s.lsq.set s.lsqHead none else s.lsq
    lsqHead := if usesLsq e.opcode then (s.lsqHead + 1) % s.cfg.lsqSize else s.lsqHead
    lsqCount := if usesLsq e.opcode then s.lsqCount - 1 else s.lsqCount } := by
  obtain ⟨hu, rfl⟩ | ⟨q, hu, -, ⟨-, rfl⟩ | ⟨-, -, rfl⟩⟩ := commitMem_eq_next h <;> simp [hu, lsqRelease]

theorem commitBranch_eq (e : RobEntry) (s : State) : commitBranch e s = { s with
    btb := (commitBranch e s).btb
    btbRr := (commitBranch e s).btbRr
    victimDraws := (commitBranch e s).victimDraws
    bis := if isBranch e.opcode then s.bis.tail else s.bis } := by
  unfold commitBranch
  split
  · obtain ⟨j, old, rr, n, hb⟩ := btbUpdate_frame e.pc e.actTaken e.actTarget s
    rw [hb]
    rfl
  · rfl

theorem commitHead_eq {e : RobEntry} {s a b : State} (hpd : e.pd.isSome = hasDest e.opcode) (hprev : e.prev.isSome = hasDest e.opcode)
    (ha : commitDest e s = .next a) (hb : commitMem e a = .next b) : commitHead e (commitBranch e b) =
      retiredHead e b.dmem (commitBranch e b).btb (commitBranch e b).btbRr (commitBranch e b).victimDraws s := by
  have hbr := commitBranch_eq e b
  generalize commitBranch e b = c at hbr ⊢
  have hmem := commitMem_eq hb
  generalize b.dmem = m at hmem ⊢
  rw [commitDest_eq hpd hprev ha] at hmem
  rw [hbr, hmem]
  rfl

/-! ### The coupled clauses after a retirement -/

section
variable {e : RobEntry} {m : Memory} {b : List (Option BtbEntry)} {rr n : Nat} {s : State} (hs : Coupled s)
  (he : robAt s s.robHead = some e) (hlsq : usesLsq e.opcode = true → ∃ q, lsqAt s s.lsqHead = some q)
include hs he

omit hs in
theorem robAt_retiredHead {r : Nat} {x : RobEntry} :
    robAt (retiredHead e m b rr n s) r = some x ↔ r ≠ s.robHead ∧ robAt s r = some x := by
  by_cases hr : r = s.robHead
  · subst hr
    have hnone : robAt (retiredHead e m b rr n s) s.robHead = none := ringAt_set_self (ringAt_lt he)
    simp [hnone]
  · have hsame : robAt (retiredHead e m b rr n s) r = robAt s r := ringAt_set_ne (Ne.symm hr)
    simp [hr, hsame]

theorem robInOrder_retiredHead : robInOrder s = (s.robHead, e) :: robInOrder (retiredHead e m b rr n s) :=
  ringEntries_pop hs.queues.rob he

/-- The LSQ's head entry is that of the ROB's head (R47 (b)). -/
theorem lsqHead_rob (hu : usesLsq e.opcode = true) {q : LsqEntry} (hq : lsqAt s s.lsqHead = some q) : q.rob = s.robHead := by
  have horder := hs.order
  have hL : lsqInOrder s = (s.lsqHead, q) :: _ := ringEntries_pop hs.queues.lsq hq
  have hR : robInOrder s = (s.robHead, e) :: _ := ringEntries_pop hs.queues.rob he
  rw [LsqOrder, hL, hR, List.filter_cons_of_pos (by exact hu)] at horder
  exact (List.cons.inj horder).1

include hlsq

theorem queuesOk_retiredHead : QueuesOk (retiredHead e m b rr n s) := by
  have hpos : 0 < s.robCount := by simpa [show ringAt s.rob s.robHead = some e from he] using hs.queues.rob.head_occupied
  refine ⟨hs.queues.rob.pop he, ?_, ?_, ?_⟩
  · change s.robTail = ((s.robHead + 1) % s.cfg.robSize + (s.robCount - 1)) % s.cfg.robSize
    rw [slot_succ, Nat.sub_add_cancel hpos, hs.queues.robTail]
  · cases hu : usesLsq e.opcode with
    | false => simpa [retiredHead, hu] using hs.queues.lsq
    | true =>
      obtain ⟨q, hq⟩ := hlsq hu
      simpa [retiredHead, hu] using hs.queues.lsq.pop hq
  · cases hu : usesLsq e.opcode with
    | false => simpa [retiredHead, hu] using hs.queues.lsqTail
    | true =>
      obtain ⟨q, hq⟩ := hlsq hu
      have hpos : 0 < s.lsqCount := by simpa [show ringAt s.lsq s.lsqHead = some q from hq] using hs.queues.lsq.head_occupied
      simp only [retiredHead, hu, if_true]
      rw [slot_succ, Nat.sub_add_cancel hpos, hs.queues.lsqTail]

/-- The LSQ loses the entry of the ROB's head, if it has one, and no other (R289). -/
theorem lsqAt_retiredHead {l : Nat} {q : LsqEntry} :
    lsqAt (retiredHead e m b rr n s) l = some q ↔ q.rob ≠ s.robHead ∧ lsqAt s l = some q := by
  cases hu : usesLsq e.opcode with
  | false =>
    have hsame : lsqAt (retiredHead e m b rr n s) l = lsqAt s l := by simp [lsqAt, retiredHead, hu]
    rw [hsame, iff_and_self]
    rintro hq hr
    obtain ⟨e', he', hu'⟩ := hs.order.owner hs.queues hq
    rw [hr, he] at he'
    simp [← Option.some.inj he', hu] at hu'
  | true =>
    obtain ⟨q₀, hq₀⟩ := hlsq hu
    have hr₀ := lsqHead_rob hs he hu hq₀
    by_cases hl : l = s.lsqHead
    · subst hl
      have hnone : lsqAt (retiredHead e m b rr n s) s.lsqHead = none := by
        simp only [lsqAt, retiredHead, hu, if_true]
        exact ringAt_set_self (ringAt_lt hq₀)
      rw [hnone, hq₀]
      simp only [reduceCtorEq, Option.some.injEq, false_iff, not_and]
      rintro hne rfl
      exact hne hr₀
    · have hsame : lsqAt (retiredHead e m b rr n s) l = lsqAt s l := by
        simp only [lsqAt, retiredHead, hu, if_true]
        exact ringAt_set_ne (Ne.symm hl)
      rw [hsame, iff_and_self]
      exact fun hq hr => hl (hs.order.unique hs.queues hq hq₀ (hr.trans hr₀.symm)).1

theorem lsqOrder_retiredHead : LsqOrder (retiredHead e m b rr n s) := by
  have horder := hs.order
  rw [LsqOrder, robInOrder_retiredHead (m := m) (b := b) (rr := rr) (n := n) hs he] at horder
  cases hu : usesLsq e.opcode with
  | false =>
    have hsame : lsqInOrder (retiredHead e m b rr n s) = lsqInOrder s := by simp [lsqInOrder_eq, retiredHead, hu]
    rw [List.filter_cons_of_neg (by simp [hu])] at horder
    rwa [LsqOrder, hsame]
  | true =>
    obtain ⟨q, hq⟩ := hlsq hu
    have hL : lsqInOrder s = (s.lsqHead, q) :: lsqInOrder (retiredHead e m b rr n s) := by
      have := ringEntries_pop hs.queues.lsq hq
      simpa [lsqInOrder_eq, retiredHead, hu] using this
    rw [hL, List.filter_cons_of_pos (by exact hu)] at horder
    exact (List.cons.inj horder).2

/-- The map an instruction was renamed under is the same counted from the new retirement map. -/
theorem mapBefore_retiredHead {r : Nat} {x : RobEntry} (hr : r ≠ s.robHead) (hx : robAt s r = some x) :
    mapBefore (retiredHead e m b rr n s) r = mapBefore s r := by
  have hq := queuesOk_retiredHead (m := m) (b := b) (rr := rr) (n := n) hs he hlsq
  have hmem : (r, x) ∈ robInOrder (retiredHead e m b rr n s) := (mem_robInOrder hq).2 ((robAt_retiredHead he).2 ⟨hr, hx⟩)
  obtain ⟨xs, ys, hsplit⟩ := List.append_of_mem hmem
  have hold : robInOrder s = ((s.robHead, e) :: xs) ++ (r, x) :: ys := by
    rw [robInOrder_retiredHead (m := m) (b := b) (rr := rr) (n := n) hs he, hsplit]
    rfl
  rw [mapBefore_of_append hq hsplit, mapBefore_of_append hs.queues hold]
  rfl

omit hlsq

theorem head_entries : e.pd.isSome = hasDest e.opcode ∧ e.prev.isSome = hasDest e.opcode ∧
    (hasDest e.opcode = true → e.rd < s.cfg.numArch) := by
  obtain ⟨-, -, -, hentries, -⟩ := hs.rename
  exact hentries (s.robHead, e) ((mem_robInOrder hs.queues).2 he)

/-- The head's previous register is the one the retirement map has for its destination (R47 (f)). -/
theorem head_prev (hpd : e.pd.isSome = true) : e.prev = s.rrat[e.rd]? := by
  obtain ⟨-, -, -, -, -, -, z, -, -, hchain⟩ := hs.rename
  rw [show robInOrder s = (s.robHead, e) :: _ from ringEntries_pop hs.queues.rob he] at hchain
  simp only [List.map_cons, renameChain, hpd, if_true, Bool.and_eq_true, decide_eq_true_eq] at hchain
  exact hchain.1

/-- A retirement gives up exactly the previous register of its destination (R134, R140). -/
theorem owned_retiredHead (hshape : Shape s) : (owned s).Perm (e.prev.toList ++ owned (retiredHead e m b rr n s)) := by
  obtain ⟨hpd, hprev, hrd⟩ := head_entries hs he
  obtain ⟨-, -, -, hrrat, -⟩ := hshape
  rw [owned_eq, owned_eq, robInOrder_retiredHead (m := m) (b := b) (rr := rr) (n := n) hs he]
  change (s.rrat ++ destsOf ((s.robHead, e) :: _)).Perm (_ ++ (e.mapAfter s.rrat ++ _))
  rw [destsOf_cons]
  cases hp : e.pd with
  | none =>
    have hnone : e.prev = none := by simpa [← hpd, hp] using hprev
    rw [RobEntry.mapAfter, hp, hnone]
    exact .refl _
  | some p =>
    have hlt : e.rd < s.rrat.length := hrrat ▸ hrd (by rw [← hpd, hp]; rfl)
    have hq : e.prev = some s.rrat[e.rd] := (head_prev hs he (by simp [hp])).trans (List.getElem?_eq_getElem hlt)
    have hswap : (s.rrat[e.rd] :: s.rrat.set e.rd p).Perm (p :: s.rrat) :=
      ((List.set_perm_cons_eraseIdx hlt p).cons _).trans ((List.Perm.swap ..).trans ((List.getElem_cons_eraseIdx_perm hlt).cons p))
    rw [RobEntry.mapAfter, hp, hq]
    exact List.perm_middle.trans (hswap.symm.append_right _)

theorem renameOk_retiredHead (hshape : Shape s) : RenameOk (retiredHead e m b rr n s) := by
  have howned := owned_retiredHead (m := m) (b := b) (rr := rr) (n := n) hs he hshape
  have hR := robInOrder_retiredHead (m := m) (b := b) (rr := rr) (n := n) hs he
  obtain ⟨hpd, -, hrd⟩ := head_entries hs he
  obtain ⟨-, hfree, -, hrrat, -⟩ := hshape
  obtain ⟨hnodup, hbound, hpool, hentries, hrat, hbranches, z, hz, hzsrc, hchain⟩ := hs.rename
  rw [howned.nodup_iff] at hnodup
  obtain ⟨-, hnodup', -⟩ := List.nodup_append.1 hnodup
  rw [hR] at hentries hrat hbranches hzsrc hchain
  refine ⟨hnodup', fun p hp => hbound p (howned.mem_iff.2 (List.mem_append_right _ hp)), fun p hp => ?pool,
    fun x hx => hentries x (List.mem_cons_of_mem _ hx), hrat, ?branches, e.zsrcAfter z, ?z, hzsrc, ?chain⟩
  case pool =>
    change (e.prev.elim s.free fun p => s.free.set p true)[p]? = _
    have hold := hpool p hp
    simp only [howned.mem_iff, List.mem_append] at hold
    cases hq : e.prev with
    | none => simpa [hq] using hold
    | some q =>
      rw [hq] at hnodup hold
      by_cases hpq : p = q
      · subst hpq
        have hno : p ∉ owned (retiredHead e m b rr n s) := (List.nodup_cons.1 hnodup).1
        have hlt : p < s.free.length := hfree ▸ hp
        simp [hno, hlt]
      · simpa [hpq, Ne.symm hpq] using hold
  case branches =>
    change (if isBranch e.opcode then s.bis.tail else s.bis).map Checkpoint.rob = _
    cases hb : isBranch e.opcode with
    | false => simpa [hb] using hbranches
    | true =>
      rw [List.filter_cons_of_pos (by exact hb)] at hbranches
      simpa using congrArg List.tail hbranches
  case z =>
    change e.zsrcAfter z ∈ none :: (e.mapAfter s.rrat).map some
    cases hp : e.pd with
    | none => simpa [RobEntry.zsrcAfter, RobEntry.mapAfter, hp] using hz
    | some p =>
      rw [RobEntry.zsrcAfter, RobEntry.mapAfter, hp]
      have hlt : e.rd < s.rrat.length := hrrat ▸ hrd (by rw [← hpd, hp]; rfl)
      exact List.mem_cons_of_mem _ (List.mem_map_of_mem (List.mem_set hlt p))
  case chain =>
    change renameChain (e.mapAfter s.rrat) _ _ (if isBranch e.opcode then s.bis.tail else s.bis) = true
    simp only [List.map_cons, renameChain, Bool.and_eq_true] at hchain
    obtain ⟨-, hchain⟩ := hchain
    cases hb : isBranch e.opcode with
    | false => simpa [hb] using hchain
    | true =>
      rw [if_pos hb] at hchain
      cases hbis : s.bis with
      | nil => simp [hbis] at hchain
      | cons ck cks =>
        simp only [hbis, Bool.and_eq_true] at hchain
        exact hchain.2

include hlsq

/-- A retirement leaves every other instruction as it is; the head has been complete and so is nowhere in flight. -/
theorem retiredHead_coupled (hshape : Shape s) (hc : e.complete = true) (hf : e.fault = false) :
    Coupled (retiredHead e m b rr n s) := by
  have hne : ∀ r ∈ flightRobs s, r ≠ s.robHead := fun r hr heq => by
    obtain ⟨x, hx, hxc⟩ := hs.robAt_of_mem_flightRobs hr
    rw [heq, he] at hx
    simp [← Option.some.inj hx, hc] at hxc
  have hkeeps : ∀ r ≠ s.robHead, KeepsInstr r s (retiredHead e m b rr n s) := fun r hr =>
    ⟨fun x hx => (robAt_retiredHead he).2 ⟨hr, hx⟩, fun l q hq hqr => (lsqAt_retiredHead hs he hlsq).2 ⟨hqr ▸ hr, hq⟩⟩
  exact {
    queues := queuesOk_retiredHead hs he hlsq
    rename := renameOk_retiredHead hs he hshape
    order := lsqOrder_retiredHead hs he hlsq
    committed := fun p hp => by
      change p ∈ e.mapAfter s.rrat at hp
      change prfReady s p = some true
      cases hpd : e.pd with
      | none =>
        rw [RobEntry.mapAfter, hpd] at hp
        exact hs.committed p hp
      | some pd =>
        rw [RobEntry.mapAfter, hpd] at hp
        obtain hp | rfl := List.mem_or_eq_of_mem_set hp
        · exact hs.committed p hp
        · simpa [hc, hf] using (hs.instr _ e he List.not_mem_nil).dest p hpd
    iq := fun x hx => by
      have hr := hne x.rob (List.mem_append_left _ (List.mem_map_of_mem hx))
      obtain ⟨y, hy, -⟩ := robLink_iff.1 (hs.iq x hx).rob
      exact (hs.iq x hx).of_keeps (hkeeps _ hr) (mapBefore_retiredHead hs he hlsq hr hy) fun _ _ => rfl
    unit := fun c op hop => by
      have hop : some op ∈ unitStages c s := by cases c <;> exact hop
      have hr := hne op.rob (List.mem_append_right _ (List.mem_map_of_mem (mem_unitOps.2 ⟨c, hop⟩)))
      exact (hs.unit c op hop).of_keeps (hkeeps _ hr)
    nodup := hs.nodup
    instr := fun r x hx _ => by
      obtain ⟨hr, hx⟩ := (robAt_retiredHead he).1 hx
      have hold := hs.instr r x hx List.not_mem_nil
      refine ⟨hold.complete.trans (or_congr Iff.rfl (exists_congr fun l => exists_congr fun q => ?_)),
        fun l q hl hqr => hold.lsq l q ((lsqAt_retiredHead hs he hlsq).1 hl).2 hqr, hold.fault, hold.dest, hold.branch⟩
      rw [lsqAt_retiredHead hs he hlsq]
      exact ⟨fun ⟨hl, hqr, hw⟩ => ⟨⟨hqr ▸ hr, hl⟩, hqr, hw⟩, fun ⟨⟨_, hl⟩, hqr, hw⟩ => ⟨hl, hqr, hw⟩⟩ }

end

/-! ### Flush -/

theorem foldl_set_getElem? (ps : List Nat) {l : List Bool} {p : Nat} (hp : p < l.length) :
    (ps.foldl (fun l p => l.set p true) l)[p]? = if p ∈ ps then some true else l[p]? := by
  induction ps generalizing l with
  | nil => simp
  | cons q ps ih =>
    rw [List.foldl_cons, ih (by simpa using hp)]
    by_cases hq : q = p
    · subst hq
      simp [hp]
    · simp [List.getElem?_set_ne hq, Ne.symm hq]

theorem mem_robDests {l : List (Option RobEntry)} {p : Nat} : p ∈ robDests l ↔ ∃ e, some e ∈ l ∧ e.pd = some p := by
  induction l with
  | nil => simp [robDests]
  | cons x l ih =>
    cases x with
    | none => simp [robDests, ih]
    | some e =>
      cases he : e.pd <;> simp [robDests, he, ih, eq_comm]

/-- The registers a flush frees are the destinations in flight (R328). -/
theorem mem_robDests_iff_destsOf {s : State} (hq : QueuesOk s) {p : Nat} : p ∈ robDests s.rob ↔ p ∈ destsOf (robInOrder s) := by
  rw [mem_robDests, destsOf, List.mem_filterMap]
  constructor
  · rintro ⟨e, he, hp⟩
    obtain ⟨r, hr⟩ := List.mem_iff_getElem?.1 he
    exact ⟨(r, e), (mem_robInOrder hq).2 (by simp [robAt, hr]), hp⟩
  · rintro ⟨x, hx, hp⟩
    have hx := (mem_robInOrder hq).1 hx
    exact ⟨x.2, List.mem_of_getElem? (Option.join_eq_some_iff.1 hx), hp⟩

/-- After a flush the front map is the retirement map and exactly the committed registers are in use (R328, R341). -/
theorem renameOk_flushState {ck : Checkpoint} {n : Word} {s : State} (hshape : Shape s) (hs : Coupled s) (hrat : ck.rat = s.rrat)
    (hzsrc : ck.zsrc ∈ none :: s.rrat.map some) :
    RenameOk (flushState ck n { s with free := (robDests s.rob).foldl (fun l p => l.set p true) s.free }) := by
  obtain ⟨-, hfree, -⟩ := hshape
  obtain ⟨hnodup, hbound, hpool, -⟩ := hs.rename
  rw [owned_eq] at hnodup hbound hpool
  obtain ⟨hrrat, -, hdisjoint⟩ := List.nodup_append.1 hnodup
  have howned : owned (flushState ck n { s with free := (robDests s.rob).foldl (fun l p => l.set p true) s.free }) = s.rrat :=
    List.append_nil _
  rw [RenameOk, howned]
  refine ⟨hrrat, fun p hp => hbound p (List.mem_append_left _ hp), fun p hp => ?_, fun x hx => (List.not_mem_nil hx).elim, hrat, rfl,
    ck.zsrc, hzsrc, rfl, rfl⟩
  refine (foldl_set_getElem? _ (hfree ▸ hp)).trans ?_
  have hmem := mem_robDests_iff_destsOf hs.queues (p := p)
  rw [hpool p hp]
  by_cases hd : p ∈ destsOf (robInOrder s)
  · have hno : p ∉ s.rrat := fun hr => hdisjoint p hr p hd rfl
    simp [hmem, hd, hno]
  · simp [hmem, hd]

theorem flush_coupled {ck : Checkpoint} {n : Word} {s t : State} (hshape : Shape s) (hs : Coupled s) (hrat : ck.rat = s.rrat)
    (hzsrc : ck.zsrc ∈ none :: s.rrat.map some) (h : flush ck n s = .next t) : Coupled t := by
  have hrename := renameOk_flushState (n := n) hshape hs hrat hzsrc
  rw [flush_eq_next h]
  generalize (robDests s.rob).foldl (fun l p => l.set p true) s.free = F at hrename ⊢
  have hrob : ∀ r, robAt (flushState ck n { s with free := F }) r = none := fun r => ringAt_emptied r
  have hiq : iqEntries (flushState ck n { s with free := F }) = [] := by
    simp [iqEntries, flushState, emptied, bisClear, ratRestore]
  have hunit : ∀ c op, some op ∉ unitStages c (flushState ck n { s with free := F }) := fun c op => by
    cases c <;> simp [unitStages, flushState, emptied, bisClear, ratRestore]
  have hflight : flightRobs (flushState ck n { s with free := F }) = [] := by
    have hops : unitOps (flushState ck n { s with free := F }) = [] := List.eq_nil_iff_forall_not_mem.2 fun op hop => by
      obtain ⟨c, hc⟩ := mem_unitOps.1 hop
      exact hunit c op hc
    rw [flightRobs, hiq, hops]
    rfl
  exact {
    queues := ⟨hs.queues.rob.emptied, (Nat.mod_eq_of_lt hs.queues.rob.head).symm, hs.queues.lsq.emptied,
      (Nat.mod_eq_of_lt hs.queues.lsq.head).symm⟩
    rename := hrename
    order := rfl
    committed := hs.committed
    iq := by simp [hiq]
    unit := fun c op hop => absurd hop (hunit c op)
    nodup := by simp [hflight]
    instr := fun r e he => nomatch (hrob r).symm.trans he }

/-! ### Memory and prediction -/

theorem commitMem_memOk {e : RobEntry} {s t : State} (hs : MemOk s) (h : commitMem e s = .next t) : MemOk t := by
  obtain ⟨hwf, hbound⟩ := hs
  obtain ⟨-, rfl⟩ | ⟨q, -, -, ⟨-, rfl⟩ | ⟨-, hin, rfl⟩⟩ := commitMem_eq_next h
  · exact ⟨hwf, hbound⟩
  · exact ⟨hwf, hbound⟩
  · exact ⟨Memory.write_wf _ _ hwf, Memory.write_bound _ (of_decide_eq_true hin) hbound⟩

/-- The tags of the valid entries of a BTB. -/
def btbTags (l : List (Option BtbEntry)) : List Word := (l.filterMap id).map BtbEntry.tag

theorem btbFind_eq_some {a : Word} {j k : Nat} {l : List (Option BtbEntry)} {e : BtbEntry} (h : btbFind a j l = some (k, e)) :
    j ≤ k ∧ l[k - j]? = some (some e) ∧ e.tag = a := by
  induction l generalizing j with
  | nil => cases h
  | cons y l ih =>
    have later (h' : btbFind a (j + 1) l = some (k, e)) : j ≤ k ∧ (y :: l)[k - j]? = some (some e) ∧ e.tag = a := by
      obtain ⟨hle, hget, htag⟩ := ih h'
      exact ⟨by omega, by rwa [show k - j = k - (j + 1) + 1 by omega, List.getElem?_cons_succ], htag⟩
    cases y with
    | none => exact later h
    | some x =>
      rw [btbFind] at h
      split at h
      · cases h
        exact ⟨le_refl _, by simp, ‹_›⟩
      · exact later h

theorem btbFind_eq_none {a : Word} {j : Nat} {l : List (Option BtbEntry)} (h : btbFind a j l = none) : a ∉ btbTags l := by
  induction l generalizing j with
  | nil => simp [btbTags]
  | cons y l ih =>
    cases y with
    | none => exact ih h
    | some x =>
      rw [btbFind] at h
      split at h
      · cases h
      · rename_i hne
        have hl := ih h
        simp only [btbTags, List.filterMap_cons, id_eq, List.map_cons, List.mem_cons, not_or] at hl ⊢
        exact ⟨Ne.symm hne, hl⟩

theorem perm_btbTags {l l' : List (Option BtbEntry)} (h : l.Perm l') : (btbTags l).Perm (btbTags l') := (h.filterMap id).map _

theorem nodup_btbTags_set {l : List (Option BtbEntry)} {k : Nat} {e : BtbEntry} (h : (btbTags l).Nodup)
    (hnew : e.tag ∉ btbTags (l.eraseIdx k)) : (btbTags (l.set k (some e))).Nodup := by
  by_cases hk : k < l.length
  · refine (perm_btbTags (List.set_perm_cons_eraseIdx hk _)).nodup_iff.2 (List.nodup_cons.2 ⟨hnew, h.sublist ?_⟩)
    exact ((List.eraseIdx_sublist l k).filterMap id).map _
  · rwa [List.set_eq_of_length_le (not_lt.1 hk)]

/-- Training keeps at most one entry per tag and the pointer an index (R39, R256, R257). -/
theorem btbUpdate_btbOk {a : Word} {taken : Bool} {target : Word} {s : State} (hs : BtbOk s) : BtbOk (btbUpdate a taken target s) := by
  obtain ⟨hnodup, hrr⟩ := hs
  have hmiss (k : Nat) (old : Word) (hf : btbFind a 0 s.btb = none) :
      (btbTags (s.btb.set k (some (trainedEntry a taken target old)))).Nodup := by
    refine nodup_btbTags_set hnodup fun hmem => btbFind_eq_none hf ?_
    exact (((List.eraseIdx_sublist s.btb k).filterMap id).map _).subset hmem
  unfold btbUpdate
  split
  · rename_i k e hf
    obtain ⟨-, hget, htag⟩ := btbFind_eq_some hf
    obtain ⟨hlt, hget⟩ := List.getElem?_eq_some_iff.1 hget
    have hperm := perm_btbTags (List.getElem_cons_eraseIdx_perm hlt)
    rw [hget] at hperm
    have hold := List.nodup_cons.1 (hperm.nodup_iff.2 hnodup)
    exact ⟨nodup_btbTags_set hnodup (htag ▸ hold.1), hrr⟩
  · rename_i hf
    split
    · exact ⟨hmiss _ _ hf, hrr⟩
    · refine ⟨hmiss _ _ hf, ?_⟩
      cases hv : s.cfg.btbVictim with
      | roundRobin => simpa [btbVictim, hv] using Nat.mod_lt _ (Nat.zero_lt_of_lt hrr)
      | free => simpa [btbVictim, hv] using hrr

theorem commitBranch_btbOk {e : RobEntry} {s : State} (hs : BtbOk s) : BtbOk (commitBranch e s) := by
  unfold commitBranch
  split
  · exact btbUpdate_btbOk hs
  · exact hs

/-! ### Commit -/

/-- The bottom checkpoint of a branch at the head is the retirement map (R135, R331). -/
theorem head_checkpoint {e : RobEntry} {s : State} (hs : Coupled s) (he : robAt s s.robHead = some e) (hb : isBranch e.opcode = true) :
    ∃ ck l, s.bis = ck :: l ∧ ck.rat = s.rrat ∧ ck.zsrc ∈ none :: s.rrat.map some := by
  obtain ⟨-, -, -, -, -, -, z, hz, -, hchain⟩ := hs.rename
  rw [show robInOrder s = (s.robHead, e) :: _ from ringEntries_pop hs.queues.rob he] at hchain
  simp only [List.map_cons, renameChain, hb, if_true, Bool.and_eq_true] at hchain
  obtain ⟨-, hchain⟩ := hchain
  cases hbis : s.bis with
  | nil => simp [hbis] at hchain
  | cons ck l =>
    simp only [hbis, Bool.and_eq_true, decide_eq_true_eq] at hchain
    obtain ⟨⟨hrat, rfl⟩, -⟩ := hchain
    exact ⟨ck, l, rfl, hrat, hz⟩

section
variable {e : RobEntry} {s a b : State} (hs : EngineInv s) (he : robAt s s.robHead = some e) (ha : commitDest e s = .next a)
  (hb : commitMem e a = .next b)
include hs he ha hb

/-- The parts of a retirement but the flush keep the invariant. -/
theorem commitHead_engineInv (hc : e.complete = true) (hf : e.fault = false) : EngineInv (commitHead e (commitBranch e b)) := by
  have hcoupled := hs.coupled
  obtain ⟨hsetup, hshape, -, hmem, hbtb, -, -, -, -, -, hdr⟩ := hs
  obtain ⟨hpd, hprev, -⟩ := head_entries hcoupled he
  have hstate := commitHead_eq hpd hprev ha hb
  have hlsq : usesLsq e.opcode = true → ∃ q, lsqAt s s.lsqHead = some q := by
    intro hu
    obtain ⟨hno, -⟩ | ⟨q, -, hq, -⟩ := commitMem_eq_next hb
    · simp [hu] at hno
    · rw [commitDest_eq hpd hprev ha] at hq
      exact ⟨q, hq⟩
  have hshape' : Shape (commitHead e (commitBranch e b)) :=
    commitHead_shape (commitBranch_shape (commitMem_shape (commitDest_shape hshape ha) hb))
  have hmem' : MemOk (commitHead e (commitBranch e b)) := by
    have hmema : MemOk a := by
      rw [commitDest_eq hpd hprev ha]
      exact hmem
    have hmemb := commitMem_memOk hmema hb
    obtain ⟨_, _, _, _, hframe⟩ := commitBranch_frame e b
    rw [hframe]
    exact hmemb
  have hbtb' : BtbOk (commitHead e (commitBranch e b)) := by
    refine commitBranch_btbOk ?_
    rw [commitMem_eq hb, commitDest_eq hpd hprev ha]
    exact hbtb
  rw [hstate] at hshape' hmem' hbtb' ⊢
  exact engineInv_of_coupled hsetup hshape' hmem' hbtb' hdr (retiredHead_coupled hcoupled he hlsq hshape hc hf)

/-- The flush of a mispredicted branch keeps the invariant (R327, R328). -/
theorem flush_engineInv {ck : Checkpoint} {n : Word} {t : State} (hc : e.complete = true) (hf : e.fault = false)
    (hbr : isBranch e.opcode = true) (hck : bisOldest s.robHead b = some ck)
    (h : flush ck n (commitHead e (commitBranch e b)) = .next t) : EngineInv t := by
  have hinv := commitHead_engineInv hs he ha hb hc hf
  have hcoupled := hs.coupled
  obtain ⟨hpd, hprev, -⟩ := head_entries hcoupled he
  obtain ⟨ck', l, hbis, hrat, hzsrc⟩ := head_checkpoint hcoupled he hbr
  obtain rfl : ck = ck' := by
    obtain ⟨l', hl', -⟩ := bisOldest_eq_some hck
    rw [commitMem_eq hb, commitDest_eq hpd hprev ha] at hl'
    exact (List.cons.inj (hl'.symm.trans hbis)).1
  have hrrat : (commitHead e (commitBranch e b)).rrat = s.rrat := by
    rw [commitHead_eq hpd hprev ha hb]
    change e.mapAfter s.rrat = s.rrat
    rw [RobEntry.mapAfter, hcoupled.pd_eq_none he (hasDest_of_isBranch hbr)]
  have hcfg : (commitHead e (commitBranch e b)).cfg = s.cfg := by rw [commitHead_eq hpd hprev ha hb]; rfl
  have hcoupled' := hinv.coupled
  obtain ⟨hsetup, hshape, -, hmem, hbtb, -⟩ := hinv
  have hlen : ck.rat.length = (commitHead e (commitBranch e b)).cfg.numArch := by
    obtain ⟨-, -, -, hlen, -⟩ := hshape
    rw [hrat, ← hrrat, hlen]
  rw [← hrrat] at hrat hzsrc
  have hct := flush_coupled hshape hcoupled' hrat hzsrc h
  have hst := flush_shape hshape hlen h
  rw [flush_eq_next h] at hct hst ⊢
  exact engineInv_of_coupled hsetup hst hmem hbtb (fun d hd => nomatch hd) hct

end

theorem commit_engineInv {s t : State} (hs : EngineInv s) (h : commit s = .next t) : EngineInv t := by
  obtain ⟨rfl, -⟩ | ⟨e, -, he, hc, ⟨-, rfl⟩ | ⟨hf, hr⟩⟩ := commit_eq_next h
  · exact hs
  · exact hs
  · obtain ⟨a, b, ha, hb, hend⟩ := retire_eq_next hr
    have hinv := commitHead_engineInv hs he ha hb hc hf
    obtain ⟨hbr, rfl⟩ | ⟨ck, hbr, hck, ⟨-, rfl⟩ | ⟨-, hfl⟩⟩ := hend
    · simpa [commitBranch, hbr] using hinv
    · exact hinv
    · exact flush_engineInv hs he ha hb hc hf hbr hck hfl

/-! ### The other stages, and the step -/

theorem setUnit_dr (c : UnitClass) (l : List (Option UnitLatch)) (s : State) : (setUnit c l s).dr = s.dr := by cases c <;> rfl

theorem lsqLoadAccess_dr {s t : State} (h : lsqLoadAccess s = .next t) : t.dr = s.dr := by
  obtain ⟨-, rfl⟩ | ⟨l, q, p, e, -, -, -, -, -, rfl⟩ := lsqLoadAccess_eq_next h <;> rfl

theorem aluLast_dr {op : UnitLatch} {s t : State} (h : aluLast op s = .next t) : t.dr = s.dr := by
  obtain ⟨e, -, ⟨rfl, -⟩ | ⟨v, p, -, -, -, rfl⟩⟩ := aluLast_eq_next h <;> rfl

theorem lastStage_dr {c : UnitClass} {op : UnitLatch} {s t : State} (h : lastStage c op s = .next t) : t.dr = s.dr := by
  cases c with
  | mem =>
    obtain ⟨a, -, h⟩ := memLast_eq_next h
    obtain ⟨l, q, -, -, ⟨-, -, rfl⟩ | ⟨e, -, ⟨-, -, rfl⟩ | ⟨-, rfl⟩⟩⟩ := memRecord_eq_next h <;> rfl
  | br =>
    obtain ⟨e, taken, target, -, -, rfl⟩ := branchLast_eq_next h
    rfl
  | mul => exact aluLast_dr h
  | int => exact aluLast_dr h

theorem evalUnit_dr {c : UnitClass} {s t : State} (h : evalUnit c s = .next t) : t.dr = s.dr := by
  obtain ⟨-, rfl⟩ | ⟨op, u, -, hu, rfl⟩ := evalUnit_eq_next h
  · exact setUnit_dr _ _ _
  · exact (setUnit_dr _ _ _).trans (lastStage_dr hu)

theorem issueClass_dr {c : UnitClass} {s t : State} (h : issueClass c s = .next t) : t.dr = s.dr := by
  obtain ⟨rfl, -⟩ | ⟨q, e, vs, -, -, -, rfl⟩ := issueClass_eq_next h
  · rfl
  · exact setUnit_dr _ _ _

section
variable {c : UnitClass} {s t : State} (hs : EngineInv s)
include hs

theorem EngineInv.shape : Shape s := by
  obtain ⟨-, hshape, -⟩ := hs
  exact hshape

theorem EngineInv.drOk : DrOk s := by
  obtain ⟨-, -, -, -, -, -, -, -, -, -, hdr⟩ := hs
  exact hdr

/-- The invariant after a stage that leaves the front-end latch too. -/
theorem EngineInv.of_keepsFront (hk : KeepsCommitted s t) (hdr : t.dr = s.dr) (hshape : Shape t) (hc : Coupled t) : EngineInv t := by
  have hdrs := hs.drOk
  refine hs.of_keepsCommitted hk hshape ?_ hc
  rwa [DrOk, hdr, hk.cfg]

theorem lsqLoadAccess_engineInv (h : lsqLoadAccess s = .next t) : EngineInv t :=
  hs.of_keepsFront (lsqLoadAccess_keepsCommitted h) (lsqLoadAccess_dr h) (lsqLoadAccess_shape hs.shape h)
    (lsqLoadAccess_coupled hs.coupled h)

theorem evalUnit_engineInv (h : evalUnit c s = .next t) : EngineInv t :=
  hs.of_keepsFront (evalUnit_keepsCommitted h) (evalUnit_dr h) (evalUnit_shape hs.shape h) (evalUnit_coupled hs.coupled h)

theorem issueClass_engineInv (h : issueClass c s = .next t) : EngineInv t :=
  hs.of_keepsFront (issueClass_keepsCommitted h) (issueClass_dr h) (issueClass_shape hs.shape h)
    (issueClass_coupled hs.shape hs.coupled h)

/-- The invariant does not see the pc, the recovery flag and the stall record, and of the latch only its register fields. -/
theorem EngineInv.withFront (pc : Word) (f : Bool) (d : Option DrLatch) (r : Stall) (hd : DrOk { s with dr := d }) :
    EngineInv { s with pc := pc, fetchRecover := f, dr := d, lastStall := r } := by
  obtain ⟨hsetup, hshape, hrings, hmem, hbtb, hrename, hflow, hlsq, hvalid, hbranch, -⟩ := hs
  exact ⟨hsetup, hshape, hrings, hmem, hbtb, hrename, hflow, hlsq, hvalid, hbranch, hd⟩

theorem dispatch_engineInv (h : dispatch s = .next t) : EngineInv t := by
  obtain ⟨-, rfl⟩ | ⟨d, hd, ⟨-, rfl⟩ | ⟨src, hr, hsrc, rfl⟩⟩ := dispatch_eq_next h
  · exact hs
  · refine hs.withFront s.pc s.fetchRecover _ _ fun d' hd' => ?_
    obtain rfl := Option.some.inj hd'
    exact hs.drOk d hd
  · obtain ⟨hrd, -⟩ := hs.drOk d hd
    refine hs.of_keepsCommitted (dispatchWith_keepsCommitted d src s) (dispatchWith_shape src hs.shape hr) ?_
      (dispatchWith_coupled hs.coupled hr hs.shape hrd hsrc)
    rw [dispatchWith_eq]
    exact fun d' hd' => nomatch hd'

omit hs in
/-- The latch made of a legal instruction names registers only (R110, R150). -/
theorem drOf_registers {pc : Word} {i : Instr} {n : Nat} (h : i.wellFormed n = true) :
    (hasDest (drOf pc i).opcode = true → (drOf pc i).rd < n) ∧ ∀ r ∈ srcRegs (drOf pc i), r < n := by
  cases i <;> simp_all [Instr.wellFormed, regOk, drOf, Instr.toRecord, Instr.opcode, srcRegs, hasDest]

theorem fetch_engineInv (h : fetch s = .next t) : EngineInv t := by
  obtain ⟨-, rfl⟩ | ⟨-, rfl, -⟩ | ⟨i, -, -, -, hw, rfl⟩ := fetch_eq_next h
  · exact hs
  · exact hs
  · refine hs.withFront _ s.fetchRecover _ s.lastStall fun d hd => ?_
    obtain rfl := Option.some.inj hd
    exact drOf_registers hw

end

end Sys2Proof.Machine

section
open Sys2Proof Sys2Proof.Machine

/-- Settles O54, stage by stage: a stage opens a hole at the instruction it moves on and closes it again (`CoupledBut`), dispatch appends
to the queues, commit takes their heads off, and a flush empties them. -/
theorem stepKeepsInv : Obligations.StepKeepsInv := fun _ _ hs h =>
  step_keeps commit_engineInv lsqLoadAccess_engineInv evalUnit_engineInv issueClass_engineInv dispatch_engineInv fetch_engineInv id
    hs h

end

/-! ## Committed registers

SUPPORT. No stage after commit touches a committed register: a result goes to a register that is not valid yet, and a destination is
allocated from the free ones (R24, R48, R142). -/

namespace Sys2Proof.Machine

/-- Every committed register is as it was, value and valid bit. -/
def KeepsRegisters (s t : State) : Prop := ∀ p ∈ s.rrat, t.prf[p]? = s.prf[p]?

section
variable {s t : State} (hs : EngineInv s)
include hs

theorem broadcast_keepsRegisters {p : Nat} {v : Word} (hp : prfReady s p = some false) (ht : t.prf = s.prf.set p ⟨v, true⟩) :
    KeepsRegisters s t := by
  intro p' hp'
  have hready := hs.coupled.committed p' hp'
  rw [ht, List.getElem?_set_ne]
  rintro rfl
  simp [hp] at hready

theorem lsqLoadAccess_keepsRegisters (h : lsqLoadAccess s = .next t) : KeepsRegisters s t := by
  obtain ⟨-, rfl⟩ | ⟨l, q, p, e, -, -, -, hp, -, rfl⟩ := lsqLoadAccess_eq_next h
  · exact fun _ _ => rfl
  · exact broadcast_keepsRegisters hs hp rfl

theorem aluLast_keepsRegisters {op : UnitLatch} (h : aluLast op s = .next t) : KeepsRegisters s t := by
  obtain ⟨e, -, ⟨rfl, -⟩ | ⟨v, p, -, -, hp, rfl⟩⟩ := aluLast_eq_next h
  · exact fun _ _ => rfl
  · exact broadcast_keepsRegisters hs hp rfl

theorem lastStage_keepsRegisters {c : UnitClass} {op : UnitLatch} (h : lastStage c op s = .next t) : KeepsRegisters s t := by
  cases c with
  | mem =>
    obtain ⟨a, -, h⟩ := memLast_eq_next h
    obtain ⟨l, q, -, -, ⟨-, -, rfl⟩ | ⟨e, -, ⟨-, -, rfl⟩ | ⟨-, rfl⟩⟩⟩ := memRecord_eq_next h <;> exact fun _ _ => rfl
  | br =>
    obtain ⟨e, taken, target, -, -, rfl⟩ := branchLast_eq_next h
    exact fun _ _ => rfl
  | mul => exact aluLast_keepsRegisters hs h
  | int => exact aluLast_keepsRegisters hs h

omit hs in
theorem setUnit_prf (c : UnitClass) (l : List (Option UnitLatch)) : (setUnit c l s).prf = s.prf := by cases c <;> rfl

theorem evalUnit_keepsRegisters {c : UnitClass} (h : evalUnit c s = .next t) : KeepsRegisters s t := by
  obtain ⟨-, rfl⟩ | ⟨op, u, -, hu, rfl⟩ := evalUnit_eq_next h
  · exact fun _ _ => by rw [setUnit_prf]
  · exact fun p hp => by rw [setUnit_prf, lastStage_keepsRegisters hs hu p hp]

omit hs in
theorem issueClass_keepsRegisters {c : UnitClass} (h : issueClass c s = .next t) : KeepsRegisters s t := by
  obtain ⟨rfl, -⟩ | ⟨q, e, vs, -, -, -, rfl⟩ := issueClass_eq_next h
  · exact fun _ _ => rfl
  · exact fun _ _ => by rw [setUnit_prf]

theorem dispatch_keepsRegisters (h : dispatch s = .next t) : KeepsRegisters s t := by
  obtain ⟨-, rfl⟩ | ⟨d, -, ⟨-, rfl⟩ | ⟨src, -, -, rfl⟩⟩ := dispatch_eq_next h
  · exact fun _ _ => rfl
  · exact fun _ _ => rfl
  · intro p hp
    rw [dispatchWith_eq]
    cases hd : destReg d s with
    | none => rfl
    | some p' =>
      obtain ⟨-, hno⟩ := pickFree_not_owned hs.coupled hs.shape (destReg_eq_some hd).2
      have hne : p' ≠ p := fun heq => hno (heq ▸ List.mem_append_left _ hp)
      simp [hne]

omit hs in
theorem fetch_keepsRegisters (h : fetch s = .next t) : KeepsRegisters s t := by
  obtain ⟨-, rfl⟩ | ⟨-, rfl, -⟩ | ⟨i, -, -, -, -, rfl⟩ := fetch_eq_next h <;> exact fun _ _ => rfl

theorem stages_keepRegisters {u : State} (hb : beforeFetch s = .next t) (hf : fetch t = .next u) : KeepsRegisters s u := by
  have keep : ∀ {a b : State}, (EngineInv a ∧ KeepsCommitted s a ∧ KeepsRegisters s a) → EngineInv b → KeepsCommitted a b →
      KeepsRegisters a b → EngineInv b ∧ KeepsCommitted s b ∧ KeepsRegisters s b := fun ⟨_, hc, hr⟩ hi' hc' hr' =>
    ⟨hi', hc.trans hc', fun p hp => (hr' p (hc.rrat ▸ hp)).trans (hr p hp)⟩
  obtain ⟨-, -, hregs⟩ := stages_keep (P := fun a => EngineInv a ∧ KeepsCommitted s a ∧ KeepsRegisters s a)
    (fun ⟨hi, hk⟩ h => keep ⟨hi, hk⟩ (lsqLoadAccess_engineInv hi h) (lsqLoadAccess_keepsCommitted h) (lsqLoadAccess_keepsRegisters hi h))
    (fun ⟨hi, hk⟩ h => keep ⟨hi, hk⟩ (evalUnit_engineInv hi h) (evalUnit_keepsCommitted h) (evalUnit_keepsRegisters hi h))
    (fun ⟨hi, hk⟩ h => keep ⟨hi, hk⟩ (issueClass_engineInv hi h) (issueClass_keepsCommitted h) (issueClass_keepsRegisters h))
    (fun ⟨hi, hk⟩ h => keep ⟨hi, hk⟩ (dispatch_engineInv hi h) (dispatch_keepsCommitted h) (dispatch_keepsRegisters hi h))
    (fun ⟨hi, hk⟩ h => keep ⟨hi, hk⟩ (fetch_engineInv hi h) (fetch_keepsCommitted h) (fetch_keepsRegisters h))
    ⟨hs, .refl s, fun _ _ => rfl⟩ hb hf
  exact hregs

end

theorem readReg_of_keepsRegisters {s t : State} (hrrat : t.rrat = s.rrat) (h : KeepsRegisters s t) (i : Nat) :
    readReg t i = readReg s i := by
  unfold readReg
  rw [hrrat]
  cases hi : s.rrat[i]? with
  | none => rfl
  | some p => simp only [h p (List.mem_of_getElem? hi)]

/-- After commit a step changes no architectural register (R48, R364). -/
theorem step_readReg {s t : State} (hs : EngineInv s) (h : step s = .next t) (hd : done s = false) :
    ∃ a, commit s = .next a ∧ t.committed = a.committed ∧ ∀ i, readReg t i = readReg a i := by
  obtain ⟨hdone, -⟩ | ⟨a, -, hc, ⟨-, rfl⟩ | ⟨b, c, -, hb, hf, rfl⟩⟩ := tick_eq_next h
  · simp [hd] at hdone
  · exact ⟨a, hc, rfl, fun _ => rfl⟩
  · have hk := stages_keepCommitted hb hf
    exact ⟨a, hc, hk.committed, fun i => readReg_of_keepsRegisters hk.rrat (stages_keepRegisters (commit_engineInv hs hc) hb hf) i⟩

/-- Commit changes an architectural register only to the value of the head's destination (R323). -/
theorem commit_readReg {s a : State} {i : Nat} (hs : EngineInv s) (h : commit s = .next a) (hne : readReg a i ≠ readReg s i) :
    ∃ e pd, robAt s s.robHead = some e ∧ e.complete = true ∧ e.fault = false ∧ hasDest e.opcode = true ∧ e.rd = i ∧
      e.pd = some pd ∧ s.prf[pd]? = some ⟨readReg a i, true⟩ ∧ a.committed = s.committed + 1 := by
  obtain ⟨rfl, -⟩ | ⟨e, -, he, hc, ⟨-, rfl⟩ | ⟨hf, hr⟩⟩ := commit_eq_next h
  · exact absurd rfl hne
  · exact absurd rfl hne
  obtain ⟨hkeep, hcommitted, ⟨-, hrrat⟩ | ⟨pd, hd, hpd, hrrat⟩⟩ := retire_effect hr
  · exact absurd (by simp only [readReg, hrrat, hkeep.prf]) hne
  have hi : e.rd = i := by
    by_contra hi
    exact hne (by simp only [readReg, hrrat, hkeep.prf, List.getElem?_set_ne hi])
  have hlt : i < s.rrat.length := by
    by_contra hlt
    exact hne (by rw [readReg, hrrat, hi, List.set_eq_of_length_le (not_lt.1 hlt), hkeep.prf, readReg])
  have hready : prfReady s pd = some true := by
    simpa [hc, hf] using (hs.coupled.instr _ e he List.not_mem_nil).dest pd hpd
  obtain ⟨x, hx, hvalid⟩ := Option.map_eq_some_iff.1 hready
  have hread : readReg a i = x.value := by simp [readReg, hrrat, hi, hkeep.prf, hlt, hx]
  exact ⟨e, pd, he, hc, hf, hd, hi, hpd, by rw [hx, hread, ← hvalid], hcommitted⟩

end Sys2Proof.Machine

section
open Sys2Proof Sys2Proof.Machine

/-- Settles O51: the later stages keep every committed register, so a change is commit's, and commit writes one mapping. -/
theorem registerChangesOnlyByCommit : Obligations.RegisterChangesOnlyByCommit := by
  intro s t i hs h hne
  cases hd : done s with
  | true =>
    obtain rfl : s = t := by simpa [step, tick, hd] using h
    exact absurd rfl hne
  | false =>
    obtain ⟨a, hc, hcommitted, hread⟩ := step_readReg hs h hd
    rw [hread] at hne
    rw [hread, hcommitted]
    exact commit_readReg hs hc hne

/-- Settles O5, table row by table row (R46). -/
theorem resetState : Obligations.ResetState := by
  intro c prog hphys s
  have hprf : ∀ p < c.numPhys, s.prf[p]? = some ⟨0, decide (p < c.numArch)⟩ := fun p hp => by
    rw [State.initial_prf c prog [] [] hp]
    by_cases h : p < c.numArch <;> simp [h]
  refine ⟨rfl, rfl, rfl, rfl, rfl, fun p hp => ⟨hprf p hp, State.initial_free c prog [] [] hp⟩, ?maps, rfl, by simp [s, State.initial],
    by simp [s, State.initial], by simp [s], by simp [s, State.initial], rfl, rfl, rfl, rfl, rfl, rfl, rfl, rfl, rfl, rfl, rfl, rfl, rfl, rfl,
    rfl, rfl, fun _ _ => rfl, rfl, rfl, rfl, rfl, rfl, ?regs, rfl⟩
  case maps =>
    intro i hi
    simp [s, hi]
  case regs =>
    intro i hi
    have hmap : s.rrat[i]? = some i := by simp [s, hi]
    simp [readReg, hmap, hprf i (hi.trans hphys)]

/-- Settles O6: the reset state is the initial state of the default parameters, which are legal, with the empty program. -/
theorem invAtReset : Obligations.InvAtReset :=
  engineInv_initial [] (by decide) (by simp) rfl (by simp)

end

/-! ## Canonical memory

SUPPORT. Only commit writes the data memory, and it writes by `MemWrite`, at an index that exists (R72, R80, R86). -/

namespace Sys2Proof.Machine

theorem KeepsCommitted.memOk {s t : State} (hk : KeepsCommitted s t) (hs : MemOk s) : MemOk t := by
  rwa [MemOk, hk.cfg, hk.dmem]

theorem commitDest_memOk {e : RobEntry} {s t : State} (hs : MemOk s) (h : commitDest e s = .next t) : MemOk t := by
  obtain ⟨-, rfl⟩ | ⟨pd, prev, -, -, -, -, -, rfl⟩ := commitDest_eq_next h
  · exact hs
  · exact hs

theorem commitBranch_memOk {e : RobEntry} {s : State} (hs : MemOk s) : MemOk (commitBranch e s) := by
  obtain ⟨b, rr, n, l, hframe⟩ := commitBranch_frame e s
  rw [hframe]
  exact hs

/-- Leaving the ROB, training the BTB and a flush touch no memory, so a retirement keeps what its memory part keeps (R323 to R328). -/
theorem retire_memOk {e : RobEntry} {s t : State} (hs : MemOk s) (h : retire e s = .next t) : MemOk t := by
  obtain ⟨a, b, ha, hb, hend⟩ := retire_eq_next h
  have hmem : MemOk b := commitMem_memOk (commitDest_memOk hs ha) hb
  have hbranch : MemOk (commitBranch e b) := commitBranch_memOk hmem
  obtain ⟨-, rfl⟩ | ⟨ck, -, -, ⟨-, rfl⟩ | ⟨-, hfl⟩⟩ := hend
  · exact hmem
  · exact hbranch
  · rw [flush_eq_next hfl]
    exact hbranch

theorem commit_memOk {s t : State} (hs : MemOk s) (h : commit s = .next t) : MemOk t := by
  obtain ⟨rfl, -⟩ | ⟨e, -, -, -, ⟨-, rfl⟩ | ⟨-, hr⟩⟩ := commit_eq_next h
  · exact hs
  · exact hs
  · exact retire_memOk hs hr

end Sys2Proof.Machine

section
open Sys2Proof Sys2Proof.Machine

/-- Settles O52: the stages after commit leave the memory alone, and a commit's one write keeps the canonical form and the bound. -/
theorem stepKeepsMemoryCanonical : Obligations.StepKeepsMemoryCanonical := by
  intro s t hs h
  cases hd : done s with
  | true =>
    obtain rfl : s = t := by simpa [step, tick, hd] using h
    exact hs
  | false =>
    obtain ⟨a, b, hc, hab, rfl⟩ := tick_keepsCommitted h hd
    exact hab.memOk (commit_memOk hs hc)

end

/-! ## The packed word

SUPPORT. The decoder reads from a packed word the fields it was packed with, and a word that decodes is, on the bits its opcode
uses, the canonical word (R102, R105 to R108). -/

namespace Sys2Proof

section
variable (tag rd rs1 rs2 : Nat) (low : BitVec 16)

theorem extractLsb'_pack_high {lo : Nat} (len : Nat) (h : 16 ≤ lo) : (pack tag rd rs1 rs2 low).extractLsb' lo len =
    (BitVec.ofNat 4 tag ++ BitVec.ofNat 4 rd ++ BitVec.ofNat 4 rs1 ++ BitVec.ofNat 4 rs2).extractLsb' (lo - 16) len :=
  BitVec.extractLsb'_append_eq_of_le h

theorem extractLsb'_pack_low {lo len : Nat} (h : lo + len ≤ 16) :
    (pack tag rd rs1 rs2 low).extractLsb' lo len = low.extractLsb' lo len :=
  BitVec.extractLsb'_append_eq_of_add_le h

theorem field_pack_opcode : field (pack tag rd rs1 rs2 low) 28 4 = tag % 16 := by
  rw [field, Laws.pack_tag, BitVec.toNat_ofNat]

theorem field_pack_rd : field (pack tag rd rs1 rs2 low) 24 4 = rd % 16 := by
  rw [field, extractLsb'_pack_high _ _ _ _ _ _ (by decide), BitVec.extractLsb'_append_eq_of_le (by decide),
    BitVec.extractLsb'_append_eq_of_le (by decide), BitVec.extractLsb'_append_eq_right, BitVec.toNat_ofNat]

theorem field_pack_rs1 : field (pack tag rd rs1 rs2 low) 20 4 = rs1 % 16 := by
  rw [field, extractLsb'_pack_high _ _ _ _ _ _ (by decide), BitVec.extractLsb'_append_eq_of_le (by decide),
    BitVec.extractLsb'_append_eq_right, BitVec.toNat_ofNat]

theorem field_pack_rs2 : field (pack tag rd rs1 rs2 low) 16 4 = rs2 % 16 := by
  rw [field, extractLsb'_pack_high _ _ _ _ _ _ (by decide), BitVec.extractLsb'_append_eq_right, BitVec.toNat_ofNat]

/-- `unpack` reads back the fields of `pack`, each in its four bits; `rs3` and the immediate are read from the same low half (R102). -/
theorem unpack_pack : unpack (pack tag rd rs1 rs2 low) =
    { opcode := tag % 16, rd := rd % 16, rs1 := rs1 % 16, rs2 := rs2 % 16,
      rs3 := (low.extractLsb' 12 4).toNat, imm := low.toInt } := by
  rw [unpack, field_pack_opcode, field_pack_rd, field_pack_rs1, field_pack_rs2, field, immField,
    extractLsb'_pack_low _ _ _ _ _ (by decide), extractLsb'_pack_low _ _ _ _ _ (by decide), BitVec.extractLsb'_eq_self]

end

theorem decode_pack {tag rd rs1 rs2 : Nat} (low : BitVec 16) (htag : tag < 16) (hrd : rd < 16) (hrs1 : rs1 < 16)
    (hrs2 : rs2 < 16) : decode (pack tag rd rs1 rs2 low) = StaticRecord.toInstr
      { opcode := tag, rd := rd, rs1 := rs1, rs2 := rs2, rs3 := (low.extractLsb' 12 4).toNat, imm := low.toInt } := by
  rw [decode, unpack_pack, Nat.mod_eq_of_lt htag, Nat.mod_eq_of_lt hrd, Nat.mod_eq_of_lt hrs1, Nat.mod_eq_of_lt hrs2]

theorem toNat_rs3Half {rs3 : Nat} (h : rs3 < 16) : ((rs3Half rs3).extractLsb' 12 4).toNat = rs3 := by
  rw [rs3Half, BitVec.extractLsb'_append_eq_left, BitVec.toNat_ofNat, Nat.mod_eq_of_lt h]

/-- An immediate in range survives the sixteen bits (R105). -/
theorem toInt_ofInt_of_immOk {imm : Int} (h : immOk imm = true) : (BitVec.ofInt 16 imm).toInt = imm := by
  simp only [immOk, Bool.and_eq_true, decide_eq_true_eq] at h
  exact BitVec.toInt_ofInt_eq_self (by decide) h.1 (Int.lt_add_one_of_le h.2)

/-- A register id of a used slot fits a field of the packing (R6, R110). -/
theorem lt_sixteen_of_regOk {n r : Nat} (hn : n ≤ 16) (h : regOk n r = true) : r < 16 :=
  (of_decide_eq_true h).trans_le hn

/-- Decoding is a left inverse of encoding on the well-formed instructions (R102). -/
theorem decode_encode {n : Nat} {i : Instr} (hn : n ≤ 16) (h : i.wellFormed n = true) : decode (encode i) = .ok i := by
  have hreg {r : Nat} : regOk n r = true → r < 16 := lt_sixteen_of_regOk hn
  cases i with
  | add rd rs1 rs2 | sub rd rs1 rs2 | and rd rs1 rs2 | or rd rs1 rs2 | xor rd rs1 rs2 | mul rd rs1 rs2 | ldr rd rs1 rs2 =>
    simp only [Instr.wellFormed, Bool.and_eq_true] at h
    obtain ⟨⟨hrd, hrs1⟩, hrs2⟩ := h
    exact decode_pack 0 (by decide) (hreg hrd) (hreg hrs1) (hreg hrs2)
  | movc rd imm =>
    obtain ⟨hrd, himm⟩ := Bool.and_eq_true_iff.1 h
    rw [encode, decode_pack _ (by decide) (hreg hrd) (by decide) (by decide), toInt_ofInt_of_immOk himm]
    rfl
  | load rd rs1 imm =>
    simp only [Instr.wellFormed, Bool.and_eq_true] at h
    obtain ⟨⟨hrd, hrs1⟩, himm⟩ := h
    rw [encode, decode_pack _ (by decide) (hreg hrd) (hreg hrs1) (by decide), toInt_ofInt_of_immOk himm]
    rfl
  | store rs1 rs2 imm =>
    simp only [Instr.wellFormed, Bool.and_eq_true] at h
    obtain ⟨⟨hrs1, hrs2⟩, himm⟩ := h
    rw [encode, decode_pack _ (by decide) (by decide) (hreg hrs1) (hreg hrs2), toInt_ofInt_of_immOk himm]
    rfl
  | str rs1 rs2 rs3 =>
    simp only [Instr.wellFormed, Bool.and_eq_true] at h
    obtain ⟨⟨hrs1, hrs2⟩, hrs3⟩ := h
    rw [encode, decode_pack _ (by decide) (by decide) (hreg hrs1) (hreg hrs2), toNat_rs3Half (hreg hrs3)]
    rfl
  | bz imm | bnz imm =>
    rw [encode, decode_pack _ (by decide) (by decide) (by decide) (by decide), toInt_ofInt_of_immOk h]
    rfl
  | jump rs1 imm =>
    obtain ⟨hrs1, himm⟩ := Bool.and_eq_true_iff.1 h
    rw [encode, decode_pack _ (by decide) (by decide) (hreg hrs1) (by decide), toInt_ofInt_of_immOk himm]
    rfl
  | halt => exact decode_pack 0 (by decide) (by decide) (by decide) (by decide)

/-- Opcode 0 is no instruction, and is rejected by that number (R109). -/
theorem decode_of_reserved {w : Word} (h : field w 28 4 = 0) : decode w = .error (.unknownOpcode 0) := by
  simp [decode, StaticRecord.toInstr, unpack, h]

/-- The opcode of a record selects the instruction (R106). -/
theorem StaticRecord.tag_of_toInstr {r : StaticRecord} {i : Instr} (h : r.toInstr = .ok i) : i.opcode.tag = r.opcode := by
  unfold StaticRecord.toInstr at h
  split at h <;> cases h <;> exact Eq.symm ‹_›

/-- A word is its packed fields (R102). -/
theorem pack_fields (w : Word) :
    pack (field w 28 4) (field w 24 4) (field w 20 4) (field w 16 4) (w.extractLsb' 0 16) = w := by
  simp only [pack, field, BitVec.ofNat_toNat, BitVec.setWidth_eq]
  rw [BitVec.extractLsb'_append_extractLsb'_eq_extractLsb' (start₂ := 28) (start₁ := 24) rfl,
    BitVec.extractLsb'_append_extractLsb'_eq_extractLsb' (start₂ := 24) (start₁ := 20) rfl,
    BitVec.extractLsb'_append_extractLsb'_eq_extractLsb' (start₂ := 20) (start₁ := 16) rfl,
    BitVec.extractLsb'_append_extractLsb'_eq_extractLsb' (start₂ := 16) (start₁ := 0) rfl]
  exact BitVec.extractLsb'_eq_self

/-- Which bits of the fields below the opcode are used, field by field. -/
structure FieldMask where
  rd  : Nat
  rs1 : Nat
  rs2 : Nat
  low : BitVec 16

/-- `usedBits`, field by field (R102, R107). -/
def fieldMask : Opcode → FieldMask
  | .add | .sub | .and | .or | .xor | .mul | .ldr => ⟨15, 15, 15, 0⟩
  | .movc => ⟨15, 0, 0, 0xFFFF⟩
  | .load => ⟨15, 15, 0, 0xFFFF⟩
  | .store => ⟨0, 15, 15, 0xFFFF⟩
  | .str => ⟨0, 15, 15, 0xF000⟩
  | .bz | .bnz => ⟨0, 0, 0, 0xFFFF⟩
  | .jump => ⟨0, 15, 0, 0xFFFF⟩
  | .halt => ⟨0, 0, 0, 0⟩

theorem usedBits_eq_pack (o : Opcode) :
    Machine.usedBits o = pack 15 (fieldMask o).rd (fieldMask o).rs1 (fieldMask o).rs2 (fieldMask o).low := by
  cases o <;> rfl

theorem pack_and_pack (tag tag' rd rd' rs1 rs1' rs2 rs2' : Nat) (low low' : BitVec 16) :
    pack tag rd rs1 rs2 low &&& pack tag' rd' rs1' rs2' low' =
      pack (tag &&& tag') (rd &&& rd') (rs1 &&& rs1') (rs2 &&& rs2') (low &&& low') := by
  simp only [pack, BitVec.ofNat_and, ← BitVec.and_append]

theorem field_and_fifteen (w : Word) (lo : Nat) : field w lo 4 &&& 15 = field w lo 4 :=
  Nat.and_two_pow_sub_one_of_lt_two_pow (field_lt w lo 4)

/-- The used bits of a word, packed. -/
theorem and_usedBits (w : Word) (o : Opcode) : w &&& Machine.usedBits o =
    pack (field w 28 4) (field w 24 4 &&& (fieldMask o).rd) (field w 20 4 &&& (fieldMask o).rs1)
      (field w 16 4 &&& (fieldMask o).rs2) (w.extractLsb' 0 16 &&& (fieldMask o).low) := by
  rw [← field_and_fifteen w 28, ← pack_and_pack, pack_fields, usedBits_eq_pack]

theorem ofInt_immField (w : Word) : BitVec.ofInt 16 (immField w) = w.extractLsb' 0 16 := BitVec.ofInt_toInt

theorem and_lowMask (x : BitVec 16) : x &&& 0xFFFF#16 = x := BitVec.and_allOnes

/-- The low half that `encode` writes for STR keeps `rs3` alone of the low half it was read from. -/
theorem rs3Half_field (w : Word) : rs3Half (field w 12 4) = w.extractLsb' 0 16 &&& 0xF000#16 := by
  have hlow : w.extractLsb' 12 4 ++ w.extractLsb' 0 12 = w.extractLsb' 0 16 :=
    BitVec.extractLsb'_append_extractLsb'_eq_extractLsb' (start₂ := 12) (start₁ := 0) rfl
  have hand : (w.extractLsb' 12 4 ++ w.extractLsb' 0 12) &&& (BitVec.allOnes 4 ++ 0#12) = w.extractLsb' 12 4 ++ 0#12 := by
    rw [BitVec.and_append, BitVec.and_allOnes, BitVec.and_zero]
  rw [rs3Half, field, BitVec.ofNat_toNat, BitVec.setWidth_eq, ← hand, hlow]
  rfl

/-- The canonical word of what a word decodes to is that word on the bits its opcode uses (R102, R107, R108). -/
theorem encode_of_decode {w : Word} {i : Instr} (h : decode w = .ok i) : encode i = w &&& Machine.usedBits i.opcode := by
  have htag : i.opcode.tag = field w 28 4 := StaticRecord.tag_of_toInstr h
  rw [and_usedBits, ← htag]
  unfold decode StaticRecord.toInstr at h
  split at h <;> cases h <;>
    simp only [encode, unpack, Instr.opcode, Opcode.tag, fieldMask, field_and_fifteen, ofInt_immField, rs3Half_field,
      and_lowMask, Nat.and_zero, BitVec.and_zero, BitVec.ofNat_eq_ofNat]

end Sys2Proof

section
open Sys2Proof Sys2Proof.Machine

/-- Settles O1, format by format: `decode` reads back the fields that `encode` packs. -/
theorem decodeEncodeRoundTrip : Obligations.DecodeEncodeRoundTrip := fun _ _ => decode_encode

/-- Settles O2: the decoded instruction is canonical on the used bits, so the used bits decode to it again by the round trip. -/
theorem wordsReadExactly : Obligations.WordsReadExactly := by
  refine fun w => ⟨decode_of_reserved, fun hop => ?_⟩
  obtain ⟨i, hi⟩ := (decode_isOk w).2 hop
  have hwf : i.wellFormed 16 = true := decode_wellFormed hi
  have henc : encode i = w &&& usedBits i.opcode := encode_of_decode hi
  exact ⟨i, hi, StaticRecord.tag_of_toInstr hi, hwf, henc, henc ▸ decode_encode le_rfl hwf⟩

/-- Settles O3: each word is written by evaluation, and read by the round trip. -/
theorem workedEncodings : Obligations.WorkedEncodings := by
  intro x hx
  obtain ⟨henc, hwf⟩ : encode x.2 = x.1 ∧ x.2.wellFormed 16 = true := by
    revert x
    decide
  exact ⟨henc, henc ▸ decode_encode le_rfl hwf⟩

end

/-! ## Refusals

SUPPORT. No shared operation of the meanings refuses: they answer a next state or a fault (log 9). -/

namespace Sys2Proof.Machine

theorem next_ne_refused (t : State) (r : Refusal) : (.next t : Out) ≠ .refused r := nofun

theorem broadcast_ne_refused (p : Nat) (v : Word) (s : State) (r : Refusal) : broadcast p v s ≠ .refused r := by
  unfold broadcast
  split <;> nofun

theorem freeReg_ne_refused (p : Nat) (s : State) (r : Refusal) : freeReg p s ≠ .refused r := by
  unfold freeReg
  split <;> nofun

theorem ratRetire_ne_refused (rd pd prev : Nat) (s : State) (r : Refusal) : ratRetire rd pd prev s ≠ .refused r := by
  unfold ratRetire
  split
  · exact freeReg_ne_refused _ _ r
  · nofun

theorem memWrite_ne_refused (a v : Word) (s : State) (r : Refusal) : memWrite a v s ≠ .refused r := by
  unfold memWrite
  split <;> nofun

theorem writeBack_ne_refused (rd : Nat) (v : Word) (s : State) (r : Refusal) : writeBack rd v s ≠ .refused r := by
  unfold writeBack
  split
  · nofun
  · split
    · nofun
    · simp [seq_eq_refused, broadcast_ne_refused, ratRetire_ne_refused]

theorem loadFrom_ne_refused (rd : Nat) (a : Word) (s : State) (r : Refusal) : loadFrom rd a s ≠ .refused r := by
  unfold loadFrom
  split
  · exact writeBack_ne_refused _ _ s r
  · nofun

theorem storeTo_ne_refused (a v : Word) (s : State) (r : Refusal) : storeTo a v s ≠ .refused r := by
  unfold storeTo
  split
  · simp [seq_eq_refused, memWrite_ne_refused]
  · nofun

/-- The well-formedness check is the only source of a refusal (R110, R384). -/
theorem ifWellFormed_eq_refused {i : Instr} {s : State} {k : Out} {r : Refusal} (hk : k ≠ .refused r) :
    ifWellFormed i s k = .refused r ↔ r = .unknownOpcode ∧ i.wellFormed s.cfg.numArch = false := by
  cases hwf : i.wellFormed s.cfg.numArch <;> simp [ifWellFormed, hwf, hk, eq_comm]

/-- A meaning refuses exactly what the check refuses. -/
theorem exec_eq_refused {i : Instr} {s : State} {r : Refusal} :
    exec i s = .refused r ↔ r = .unknownOpcode ∧ i.wellFormed s.cfg.numArch = false := by
  cases i with
  | add | sub | and | or | xor | mul | movc => exact ifWellFormed_eq_refused (writeBack_ne_refused _ _ s r)
  | load | ldr => exact ifWellFormed_eq_refused (loadFrom_ne_refused _ _ s r)
  | store | str => exact ifWellFormed_eq_refused (storeTo_ne_refused _ _ s r)
  | bz | bnz | jump => exact ifWellFormed_eq_refused (next_ne_refused _ r)
  | halt => exact ifWellFormed_eq_refused (i := .halt) (next_ne_refused _ r)

/-! ## Slot usage

SUPPORT. What the zero-condition source of BZ and BNZ is, and who becomes it (R107, R132, R133). -/

/-- BZ and BNZ have no source before any instruction with a destination, else the zero-condition producer (R132, R157). -/
theorem sourceTags_of_readsZero {d : DrLatch} (hd : readsZero d.opcode = true) (s : State) :
    (s.zsrc = none → sourceTags d s = some []) ∧
    ∀ p r, s.zsrc = some p → s.prf[p]? = some r → sourceTags d s = some [⟨p, r.valid⟩] := by
  rw [sourceTags, if_pos hd]
  exact ⟨fun hz => by simp [ratLookupZ, hz], fun p r hz hp => by simp [ratLookupZ, hz, prfReady, hp]⟩

/-- The renamed destination is the zero-condition producer, and without a destination nothing is renamed (R133, R158). -/
theorem renameDest_cases (d : DrLatch) (s : State) :
    (∀ p, hasDest d.opcode = true → pickFree s = some p → (renameDest d (destReg d s) s).zsrc = some p) ∧
    (hasDest d.opcode = false → renameDest d (destReg d s) s = s) :=
  ⟨fun p hd hp => by simp [destReg, hd, hp, renameDest], fun hd => by simp [destReg, hd, renameDest]⟩

end Sys2Proof.Machine

section
open Sys2Proof Sys2Proof.Machine

/-- Settles O17: the check is the only source of a refusal, whatever the instruction. -/
theorem refusesExactlyMalformed : Obligations.RefusesExactlyMalformed := fun _ _ _ => exec_eq_refused

/-- Settles O4, row by row of the tables of R107 and R115. -/
theorem slotUsageAndUnitClass : Obligations.SlotUsageAndUnitClass := by
  intro pc rd rs1 rs2 rs3 imm
  refine ⟨?threeRegisters, ?movc, ?load, ?store, ?str, ?zeroBranches, ?jump, ?halt, renameDest_cases⟩
  case threeRegisters =>
    simp [drOf, Instr.toRecord, Instr.opcode, hasDest, srcRegs, sext32, isBranch, readsZero, usesLsq, unitClass]
  case zeroBranches =>
    refine List.forall_mem_cons.2 ⟨?bz, List.forall_mem_singleton.2 ?bnz⟩
    case bz | bnz => exact ⟨rfl, rfl, rfl, sourceTags_of_readsZero rfl, rfl, rfl, rfl, rfl⟩
  case movc | load => exact ⟨rfl, rfl, rfl, rfl, rfl, rfl, rfl, rfl⟩
  case store | str | jump | halt => exact ⟨rfl, rfl, rfl, rfl, rfl, rfl, rfl⟩

end

/-! ## The renaming operations

SUPPORT. What `alloc()` and `rat_rename(rd)` do to the registers and the maps (R131, R133, R139). -/

namespace Sys2Proof.Machine

section
variable {s : State} {p : Nat} (hp : pickFree s = some p) (hlen : s.prf.length = s.free.length)
include hp

/-- The register that `alloc()` chooses is one of the pool (R139). -/
theorem pickFree_lt : p < s.free.length := (List.getElem?_eq_some_iff.1 (pickFree_eq_some.1 hp).1).1

include hlen

/-- `alloc()` clears the free bit and the valid bit of its register and touches nothing else (R139). -/
theorem allocAt_eq_set : ∃ r, s.prf[p]? = some r ∧
    allocAt p s = { s with free := s.free.set p false, prf := s.prf.set p { r with valid := false } } := by
  have hlt : p < s.prf.length := hlen ▸ pickFree_lt hp
  refine ⟨s.prf[p], List.getElem?_eq_getElem hlt, ?_⟩
  rw [allocAt, List.modify_eq_set_getElem?, List.getElem?_eq_getElem hlt]
  rfl

/-- After `rat_rename(rd)` a lookup of `rd` finds the new register, not ready (R131, R133). -/
theorem ratLookup_ratRename {rd : Nat} (hrd : rd < s.rat.length) : ratLookup (ratRename rd p s) rd = some ⟨p, false⟩ := by
  obtain ⟨r, hr, -⟩ := allocAt_eq_set hp hlen
  simp [ratLookup, prfReady, hrd, hr, PhysReg.invalidate]

end

end Sys2Proof.Machine

section
open Sys2Proof Sys2Proof.Machine

/-- Settles O20: `lowestFree` stops at the first free register, and the pool and the registers are of one size. -/
theorem allocTakesLowestFree : Obligations.AllocTakesLowestFree := by
  intro s hlen
  refine ⟨by simp [pickFree_eq_none, List.mem_iff_getElem?], fun p hp => ?_⟩
  obtain ⟨hfree, hlow⟩ := pickFree_eq_some.1 hp
  exact ⟨hfree, fun q hq => by simp [hlow q hq], allocAt_eq_set hp hlen⟩

/-- Settles O21, field by field of `rat_rename`. -/
theorem renameInstallsMapping : Obligations.RenameInstallsMapping := by
  intro s rd p hp hlen hrd t
  have hlt := pickFree_lt hp
  refine ⟨by simp [t, hrd], fun i hi => by simp [t, Ne.symm hi], rfl, by simp [t, hlt], fun q hq => by simp [t, Ne.symm hq],
    fun r hr => by simp [t, hr, PhysReg.invalidate], ratLookup_ratRename hp hlen hrd, rfl⟩

/-- Settles O22: the retirement map changes at `rd` only, and no physical register does. -/
theorem retireCommitsMapping : Obligations.RetireCommitsMapping := by
  intro s rd pd prev hrd hprev
  refine ⟨_, ratRetire_eq_next.2 ⟨hrd, hprev, rfl⟩, rfl, fun r hr => ?_, fun i hi => ?_⟩
  · simp [readReg, hrd, hr]
  · simp [readReg, Ne.symm hi]

end

/-! ## Ownership

SUPPORT. A queue's slots hold exactly its entries, so the destinations in the ROB's slots are those in program order; with the
committed registers they are distinct, and the pool is what is left (R25, R36, R140, R141). -/

namespace Sys2Proof.Machine

section
variable {α : Type} {l : List (Option α)} {n h c : Nat}

/-- A queue without entries has no occupied slot (R36). -/
theorem RingOk.eq_none (ok : RingOk l n h 0) : ∀ x ∈ l, x = none := by
  intro x hx
  cases x with
  | none => rfl
  | some a =>
    obtain ⟨i, hi⟩ := List.mem_iff_getElem?.1 hx
    have hmem : (i, a) ∈ ringEntries l n h 0 := (mem_ringEntries ok).2 (by simp [ringAt, hi])
    exact absurd hmem List.not_mem_nil

/-- The entries of a queue are what its slots hold. -/
theorem ringEntries_perm (ok : RingOk l n h c) : ((ringEntries l n h c).map Prod.snd).Perm (l.filterMap id) := by
  induction c generalizing l h with
  | zero =>
    rw [(List.filterMap_eq_nil_iff (f := id)).2 ok.eq_none]
    exact .refl _
  | succ c ih =>
    obtain ⟨a, ha⟩ := Option.isSome_iff_exists.1 (ok.head_occupied.trans (decide_eq_true c.succ_pos))
    rw [ringEntries_pop ok ha]
    exact ((ih (ok.pop ha)).cons a).trans (perm_filterMap_set_none (Option.join_eq_some_iff.1 ha)).symm

end

theorem robDests_eq_filterMap (l : List (Option RobEntry)) : robDests l = (l.filterMap id).filterMap RobEntry.pd := by
  induction l with
  | nil => rfl
  | cons x l ih =>
    cases x with
    | none => exact ih
    | some e => cases he : e.pd <;> simp [robDests, he, ih]

theorem perm_robDests {s : State} (hq : QueuesOk s) : (destsOf (robInOrder s)).Perm (robDests s.rob) := by
  have hperm := (ringEntries_perm hq.rob).filterMap RobEntry.pd
  rwa [← robInOrder_eq, List.filterMap_map, ← robDests_eq_filterMap] at hperm

/-! ### Both maps are injective -/

/-- Renaming to registers that are distinct and not in the map keeps it injective (R141). -/
theorem nodup_replayMap {R : List (Nat × RobEntry)} {m : List Nat} (h : (m ++ destsOf R).Nodup) :
    (replayMap m (R.map Prod.snd)).Nodup := by
  induction R generalizing m with
  | nil => simpa [replayMap, destsOf] using h
  | cons x R ih =>
    refine ih ?_
    rw [destsOf_cons] at h
    cases hpd : x.2.pd with
    | none => simpa [RobEntry.mapAfter, hpd] using h
    | some p =>
      rw [hpd] at h
      obtain ⟨hp, h⟩ := List.nodup_cons.1 (List.nodup_middle.1 h)
      obtain ⟨hm, hR, hdisjoint⟩ := List.nodup_append.1 h
      rw [List.mem_append, not_or] at hp
      rw [RobEntry.mapAfter, hpd]
      refine (hm.set hp.1).append hR fun q hq hq' => ?_
      obtain hq | rfl := List.mem_or_eq_of_mem_set hq
      · exact hdisjoint q hq q hq' rfl
      · exact hp.2 hq'

/-- A mapping is the one the replay starts from or the destination of an entry on the way (R141). -/
theorem getElem?_replayMap {R : List (Nat × RobEntry)} {m : List Nat} {i : Nat} (hi : i < m.length) :
    (replayMap m (R.map Prod.snd))[i]? = m[i]? ∨
      ∃ x ∈ R, x.2.rd = i ∧ x.2.pd = (replayMap m (R.map Prod.snd))[i]? ∧ x.2.pd ≠ none := by
  induction R generalizing m with
  | nil => exact .inl rfl
  | cons x R ih =>
    obtain hstart | ⟨y, hy, hlast⟩ := ih (m := x.2.mapAfter m) (by rwa [RobEntry.mapAfter_length])
    · rw [List.map_cons, replayMap, hstart]
      cases hpd : x.2.pd with
      | none => exact .inl (by rw [RobEntry.mapAfter, hpd])
      | some p =>
        rw [RobEntry.mapAfter, hpd]
        by_cases hrd : x.2.rd = i
        · exact .inr ⟨x, List.mem_cons_self, hrd, by simp [hpd, hrd, hi], by simp [hpd]⟩
        · exact .inl (List.getElem?_set_ne hrd)
    · exact .inr ⟨y, List.mem_cons_of_mem _ hy, hlast⟩

/-! ### The count -/

/-- A pool that is free but for the registers in use: the free ones and those in use add up to it (R140). -/
theorem count_free_add_length {l : List Bool} {o : List Nat} {n : Nat} (hlen : l.length = n) (hnodup : o.Nodup)
    (hbound : ∀ p ∈ o, p < n) (hfree : ∀ p < n, l[p]? = some (decide (p ∉ o))) : l.count true + o.length = n := by
  have hl : l = (List.range n).map fun p => decide (p ∉ o) := by
    refine List.ext_getElem? fun p => ?_
    by_cases hp : p < n
    · simp [hfree p hp, hp]
    · simp [hlen, not_lt.1 hp]
  have hused : ((List.range n).filter fun p => decide (p ∈ o)).Perm o :=
    (List.perm_ext_iff_of_nodup (List.nodup_range.filter _) hnodup).2 fun p => by simpa using hbound p
  have hsplit := List.length_eq_countP_add_countP (fun p => decide (p ∈ o)) (l := List.range n)
  rw [List.countP_eq_length_filter, hused.length_eq, List.length_range] at hsplit
  rw [hl, List.count, List.countP_map, Nat.add_comm]
  refine Eq.trans ?_ hsplit.symm
  congr 2
  funext p
  simp

/-- Free, committed and in flight: the three parts of the pool (R140). -/
theorem EngineInv.ownership {s : State} (hs : EngineInv s) :
    s.free.count true + s.cfg.numArch + (robDests s.rob).length = s.cfg.numPhys := by
  obtain ⟨-, hfree, -, hrrat, -⟩ := hs.shape
  obtain ⟨hnodup, hbound, hpool, -⟩ := hs.coupled.rename
  have hcount := count_free_add_length hfree hnodup hbound hpool
  rw [owned_eq, List.length_append, hrrat, (perm_robDests hs.coupled.queues).length_eq] at hcount
  rw [Nat.add_assoc, hcount]

/-! ### The empty machine -/

/-- The availability check passes where the pool and the queues have room (R155). -/
theorem stallReason_of_room {o : Opcode} {s : State} (hpick : ∃ p, pickFree s = some p) (hrob : s.robCount ≠ s.cfg.robSize)
    (hiq : iqFull s = false) (hlsq : s.lsqCount ≠ s.cfg.lsqSize) (hbis : s.bis.length ≠ s.cfg.bisSize) :
    stallReason o s = .none := by
  obtain ⟨p, hp⟩ := hpick
  simp [stallReason, hp, robFull, hrob, hiq, lsqFull, hlsq, bisFull, hbis]

section
variable {s : State} (hs : EngineInv s) (h0 : s.robCount = 0)
include hs h0

omit hs in
theorem robInOrder_eq_nil : robInOrder s = [] := by rw [robInOrder, h0]; rfl

/-- An operation on its way has a valid ROB entry, and there is none (R47 (a), (d)). -/
theorem flightRobs_eq_nil : flightRobs s = [] := by
  refine List.eq_nil_iff_forall_not_mem.2 fun r hr => ?_
  obtain ⟨e, he, -⟩ := hs.coupled.robAt_of_mem_flightRobs hr
  have hmem : (r, e) ∈ robInOrder s := (mem_robInOrder hs.coupled.queues).2 he
  rw [robInOrder_eq_nil h0] at hmem
  exact List.not_mem_nil hmem

theorem lsqCount_eq_zero : s.lsqCount = 0 := by
  have horder := hs.coupled.order
  rw [LsqOrder, robInOrder_eq_nil h0, List.filter_nil, List.map_nil, List.map_eq_nil_iff, lsqInOrder_eq] at horder
  simpa [horder, eq_comm] using congrArg List.length (ringEntries_map_fst hs.coupled.queues.lsq)

/-- With an empty ROB every queue, every unit and the branch stack are empty (R47 (d)). -/
theorem nothingInFlight_of_robCount_eq_zero : NothingInFlight s := by
  have hl := lsqCount_eq_zero hs h0
  have hrob := hs.coupled.queues.rob
  have hlsq := hs.coupled.queues.lsq
  obtain ⟨hiq, hops⟩ := List.append_eq_nil_iff.1 (flightRobs_eq_nil hs h0)
  rw [List.map_eq_nil_iff] at hiq hops
  have hunit : ∀ c, ∀ x ∈ unitStages c s, x = none := fun c x hx => by
    cases x with
    | none => rfl
    | some op => simpa [hops] using mem_unitOps.2 ⟨c, hx⟩
  have hbis : s.bis = [] := by
    obtain ⟨-, -, -, -, -, hbranches, -⟩ := hs.coupled.rename
    simpa [robInOrder_eq_nil h0] using hbranches
  rw [h0] at hrob
  rw [hl] at hlsq
  exact ⟨h0, hl, hrob.eq_none, hlsq.eq_none, List.filterMap_eq_nil_iff.1 hiq, hunit .int, hunit .mul, hunit .br, hunit .mem, hbis⟩

/-- With nothing in flight only the committed registers are in use, and there are more registers than those (R6, R145). -/
theorem pickFree_of_robCount_eq_zero : ∃ p, pickFree s = some p := by
  obtain ⟨-, -, hempty, -⟩ := nothingInFlight_of_robCount_eq_zero hs h0
  have hcount := hs.ownership
  rw [robDests_eq_filterMap, (List.filterMap_eq_nil_iff (f := id)).2 hempty] at hcount
  obtain ⟨⟨⟨hphys, -⟩, -⟩, -⟩ := hs
  refine Option.ne_none_iff_exists'.1 fun hnone => ?_
  rw [List.count_eq_zero.2 (pickFree_eq_none.1 hnone), List.filterMap_nil, List.length_nil] at hcount
  omega

/-- No opcode stalls in an empty machine: every size is at least 1 (R6, R145). -/
theorem stallReason_of_robCount_eq_zero (o : Opcode) : stallReason o s = .none := by
  obtain ⟨-, hlsq, -, -, hiq, -, -, -, -, hbis⟩ := nothingInFlight_of_robCount_eq_zero hs h0
  have hpick := pickFree_of_robCount_eq_zero hs h0
  obtain ⟨-, -, -, -, hiqlen, -⟩ := hs.shape
  obtain ⟨⟨⟨-, hiqpos, hrobpos, hlsqpos, -, hbispos, -⟩, -⟩, -⟩ := hs
  refine stallReason_of_room hpick (by omega) ?_ (by omega) (by rw [hbis, List.length_nil]; omega)
  obtain ⟨x, l, hl⟩ : ∃ x l, s.iq = x :: l := List.exists_cons_of_length_pos (by omega)
  obtain rfl := hiq x (hl ▸ List.mem_cons_self)
  simp [iqFull, hl]

end

end Sys2Proof.Machine

section
open Sys2Proof Sys2Proof.Machine

/-- Settles O23: the front map is the replay of the ROB over the retirement map, and all these registers are distinct owners. -/
theorem renameSoundness : Obligations.RenameSoundness := by
  intro s hs
  obtain ⟨-, -, -, hrrat, -⟩ := hs.shape
  obtain ⟨hnodup, -, -, -, hrat, -⟩ := hs.coupled.rename
  rw [owned_eq] at hnodup
  refine ⟨hrat ▸ nodup_replayMap hnodup, (List.nodup_append.1 hnodup).1, fun i hi => ?_, hs.ownership⟩
  rw [hrat]
  exact getElem?_replayMap (hrrat ▸ hi)

/-- Settles O30: an operation in flight would have its entry in the ROB, and an empty machine has a free register and room. -/
theorem emptyMachineDispatches : Obligations.EmptyMachineDispatches := by
  intro s hs h0
  obtain ⟨-, -, -, -, hrat, -⟩ := hs.coupled.rename
  rw [robInOrder_eq_nil h0] at hrat
  exact ⟨nothingInFlight_of_robCount_eq_zero hs h0, hrat, stallReason_of_robCount_eq_zero hs h0⟩

end

/-! ## Under the invariant nothing stops

SUPPORT. The precondition of every operation of a tick follows from the invariant (R137, R138, R142, R201, R259, R284, log 7). -/

namespace Sys2Proof.Machine

/-- From every engine that satisfies the invariant the operation answers one that does. -/
def GoesOn (f : State → Out) : Prop := ∀ s, EngineInv s → ∃ t, f s = .next t ∧ EngineInv t

theorem GoesOn.seq {f g : State → Out} (hf : GoesOn f) (hg : GoesOn g) : GoesOn fun s => seq (f s) g := by
  intro s hs
  obtain ⟨t, ht, hinv⟩ := hf s hs
  simpa only [ht, seq_next] using hg t hinv

/-- An operation that keeps the invariant and always answers goes on. -/
theorem goesOn_of_answers {f : State → Out} (hkeep : ∀ {s t}, EngineInv s → f s = .next t → EngineInv t)
    (hanswer : ∀ {s}, EngineInv s → ∃ t, f s = .next t) : GoesOn f := fun _ hs =>
  (hanswer hs).imp fun _ ht => ⟨ht, hkeep hs ht⟩

/-! ### Results, completions and operands -/

theorem broadcast_answers {p : Nat} (v : Word) {s : State} (hp : prfReady s p = some false) : ∃ t, broadcast p v s = .next t :=
  ⟨_, broadcast_eq_next.2 ⟨hp, rfl⟩⟩

theorem robUpdate_answers {r : Nat} {e : RobEntry} (f : RobEntry → RobEntry) {s : State} (he : robAt s r = some e) :
    ∃ t, robUpdate r f s = .next t :=
  ⟨_, robUpdate_eq_next.2 ⟨e, he, rfl⟩⟩

theorem robComplete_answers {r : Nat} {e : RobEntry} {s : State} (he : robAt s r = some e) : ∃ t, robComplete r s = .next t :=
  robUpdate_answers _ he

/-- A broadcast leaves the ROB alone, so the completion after it finds the entry it names (R199, R201, R287). -/
theorem robAt_of_broadcast {p r : Nat} {v : Word} {s t : State} (h : broadcast p v s = .next t) : robAt t r = robAt s r := by
  obtain ⟨-, rfl⟩ := broadcast_eq_next.1 h
  rfl

/-- The operands of an entry whose sources are valid can be read (R137, R183). -/
theorem readOperands_answers {s : State} {ts : List SrcTag} (h : ∀ t ∈ ts, prfReady s t.p = some true) :
    ∃ vs, readOperands s ts = .ok vs := by
  induction ts with
  | nil => exact ⟨[], rfl⟩
  | cons t ts ih =>
    obtain ⟨ht, hts⟩ := List.forall_mem_cons.1 h
    obtain ⟨vs, hvs⟩ := ih hts
    obtain ⟨x, hx, hvalid⟩ := Option.map_eq_some_iff.1 ht
    have hread : prfRead s t.p = some x.value := by simp [prfRead, hx, hvalid]
    exact ⟨x.value :: vs, by simp [readOperands, hread, hvs]⟩

/-- A memory operation that is no store is a load and has a destination (R107). -/
theorem hasDest_of_load {o : Opcode} (hu : usesLsq o = true) (hst : isStoreOp o = false) : hasDest o = true := by
  cases o <;> simp_all [usesLsq, isStoreOp, hasDest]

/-- What is in the branch unit is a branch and has an outcome (R195, R253). -/
theorem branchOutcome_of_unitClass {op : UnitLatch} (h : unitClass op.opcode = .br) (pc : Word) :
    ∃ x, branchOutcome op pc = some x := by
  cases ho : op.opcode <;> simp_all [unitClass, branchOutcome]

/-- What is in the memory unit is a memory operation and has an address (R195, R284). -/
theorem memAddress_of_unitClass {op : UnitLatch} (h : unitClass op.opcode = .mem) :
    usesLsq op.opcode = true ∧ ∃ a, memAddress op = some a := by
  cases ho : op.opcode <;> simp_all [unitClass, usesLsq, memAddress]

/-- The destination of an incomplete instruction is not valid yet (R24, R142). -/
theorem InstrOk.dest_pending {s : State} {r : Nat} {e : RobEntry} (h : InstrOk s r e) (hc : e.complete = false) {p : Nat}
    (hp : e.pd = some p) : prfReady s p = some false := by
  simpa [hc] using h.dest p hp

section
variable {s : State} (hs : EngineInv s)
include hs

/-! ### Load access, units, issue -/

/-- The load that is performed has a destination that is not valid yet, and an address in range (R287). -/
theorem lsqLoadAccess_answers : ∃ t, lsqLoadAccess s = .next t := by
  have hcoupled := hs.coupled
  unfold lsqLoadAccess
  cases hfirst : firstEligible [] (lsqInOrder s) with
  | none => exact ⟨s, rfl⟩
  | some x =>
    obtain ⟨l, q⟩ := x
    obtain ⟨hmem, hw⟩ := firstEligible_eq_some hfirst
    have hl : lsqAt s l = some q := (mem_lsqInOrder hcoupled.queues).1 hmem
    obtain ⟨e, he, hu⟩ := hcoupled.order.owner hcoupled.queues hl
    have hi := hcoupled.instr _ e he List.not_mem_nil
    obtain ⟨hstore, hpd, -, -, hfault, hrecorded⟩ := lsqAgrees_iff.1 (hi.lsq l q hl rfl)
    have hc : e.complete = false := hi.complete.2 (.inr ⟨l, q, hl, rfl, hw⟩)
    simp only [LsqEntry.waiting, Bool.and_eq_true, Bool.not_eq_true'] at hw
    obtain ⟨⟨hload, haddr⟩, hdone⟩ := hw
    have hin : inData s q.addr = true := by
      have hnofault : e.fault = false := by simpa [hdone] using hrecorded
      simpa [haddr, hnofault] using hfault
    have hdest := hasDest_of_load hu (hstore.symm.trans hload)
    obtain ⟨p, hp⟩ := Option.isSome_iff_exists.1 ((hcoupled.pd_isSome he).trans hdest)
    obtain ⟨t, ht⟩ := broadcast_answers (memRead s q.addr) (hi.dest_pending hc hp)
    simp only [hpd, hp, hin, ht, if_true, seq_next]
    exact robComplete_answers (e := e) ((robAt_of_broadcast ht).trans he)

section
variable {c : UnitClass} {op : UnitLatch} (hop : lastOp (unitStages c s) = some op)
include hop

theorem aluLast_answers : ∃ t, aluLast op s = .next t := by
  obtain ⟨-, e, he, -, hpd, hc, -, hi⟩ := hs.coupled.lastOp hop
  unfold aluLast
  cases aluResult op with
  | none => exact robComplete_answers he
  | some v =>
    cases hp : op.pd with
    | none => simpa [deliver, hp] using robComplete_answers he
    | some p =>
      obtain ⟨t, ht⟩ := broadcast_answers v (hi.dest_pending hc (hpd.trans hp))
      simpa [deliver, hp, ht] using robComplete_answers ((robAt_of_broadcast ht).trans he)

theorem branchLast_answers (hcls : unitClass op.opcode = .br) : ∃ t, branchLast op s = .next t := by
  obtain ⟨-, e, he, -⟩ := hs.coupled.lastOp hop
  obtain ⟨x, hx⟩ := branchOutcome_of_unitClass hcls e.pc
  simpa [branchLast, he, hx] using robUpdate_answers (RobEntry.resolved x.1 x.2) he

/-- The LSQ entry that an operation in the memory unit names is valid (R47 (a), R284). -/
theorem memLast_answers (hcls : unitClass op.opcode = .mem) : ∃ t, memLast op s = .next t := by
  obtain ⟨-, e, he, -⟩ := hs.coupled.lastOp hop
  obtain ⟨hu, a, ha⟩ := memAddress_of_unitClass hcls
  obtain ⟨-, hno⟩ | ⟨l, q, hl, -, hq, -⟩ := lsqLink_iff.1 (hs.coupled.unit c op (mem_of_lastOp hop)).lsq
  · simp [hu] at hno
  simp only [memLast, ha, memRecord, hl, hq]
  split
  · split
    · exact robComplete_answers (e := e) he
    · exact ⟨_, rfl⟩
  · exact robUpdate_answers _ he

theorem lastStage_answers : ∃ t, lastStage c op s = .next t := by
  have hcls := (hs.coupled.unit c op (mem_of_lastOp hop)).unit
  cases c with
  | mem => exact memLast_answers hs hop hcls
  | br => exact branchLast_answers hs hop hcls
  | mul => exact aluLast_answers hs hop
  | int => exact aluLast_answers hs hop

end

theorem evalUnit_answers (c : UnitClass) : ∃ t, evalUnit c s = .next t := by
  unfold evalUnit
  cases hop : lastOp (unitStages c s) with
  | none => exact ⟨_, rfl⟩
  | some op =>
    obtain ⟨t, ht⟩ := lastStage_answers hs hop
    simp only [ht, seq_next]
    exact ⟨_, rfl⟩

/-- The selected entry is ready, so its sources are valid (R137, R181, R183). -/
theorem issueClass_answers (c : UnitClass) : ∃ t, issueClass c s = .next t := by
  unfold issueClass
  cases stage1Free c s with
  | false => exact ⟨s, rfl⟩
  | true =>
    cases hsel : selectFor c s with
    | none => exact ⟨s, rfl⟩
    | some x =>
      obtain ⟨q, e⟩ := x
      obtain ⟨-, hget, hok⟩ := oldestOf_eq_some hsel
      rw [Nat.sub_zero] at hget
      have he := hs.coupled.iq e (mem_iqEntries.2 (List.mem_of_getElem? hget))
      obtain ⟨vs, hvs⟩ := readOperands_answers (s := s) (ts := e.src) fun t ht => by
        rw [(he.src t ht).1, List.all_eq_true.1 (Bool.and_eq_true_iff.1 hok).2 t ht]
      simp only [if_true, issueEntry, hvs]
      exact ⟨_, rfl⟩

/-! ### Front end -/

/-- A register of the front map exists (R26, R47). -/
theorem prfReady_of_mem_rat {p : Nat} (hp : p ∈ s.rat) : ∃ b, prfReady s p = some b := by
  obtain ⟨hprf, -⟩ := hs.shape
  obtain ⟨-, hbound, -⟩ := hs.coupled.rename
  have hlt : p < s.prf.length := hprf ▸ hbound p (hs.coupled.mem_owned_of_mem_rat hp)
  exact ⟨_, by rw [prfReady, List.getElem?_eq_getElem hlt, Option.map_some]⟩

theorem lookupAll_answers {is : List Nat} (h : ∀ i ∈ is, i < s.cfg.numArch) : ∃ ts, lookupAll s is = some ts := by
  obtain ⟨-, -, hrat, -⟩ := hs.shape
  induction is with
  | nil => exact ⟨[], rfl⟩
  | cons i is ih =>
    obtain ⟨hi, his⟩ := List.forall_mem_cons.1 h
    obtain ⟨ts, hts⟩ := ih his
    have hlt : i < s.rat.length := hrat ▸ hi
    obtain ⟨b, hb⟩ := prfReady_of_mem_rat hs (List.getElem_mem hlt)
    have hlook : ratLookup s i = some ⟨s.rat[i], b⟩ := by simp [ratLookup, List.getElem?_eq_getElem hlt, hb]
    simp only [lookupAll, hlook, hts]
    exact ⟨_, rfl⟩

theorem ratLookupZ_answers : ∃ ts, ratLookupZ s = some ts := by
  unfold ratLookupZ
  cases hz : s.zsrc with
  | none => exact ⟨[], rfl⟩
  | some p =>
    obtain ⟨b, hb⟩ := prfReady_of_mem_rat hs (hs.coupled.zsrc_mem_rat hs.shape hz)
    simp only [hb, Option.map_some]
    exact ⟨_, rfl⟩

/-- The sources of the latch are registers of the front map, or the zero-condition source (R131, R132, R157). -/
theorem dispatch_answers : ∃ t, dispatch s = .next t := by
  unfold dispatch
  cases hd : s.dr with
  | none => exact ⟨_, rfl⟩
  | some d =>
    obtain ⟨ts, hts⟩ : ∃ ts, sourceTags d s = some ts := by
      unfold sourceTags
      split
      · exact ratLookupZ_answers hs
      · exact lookupAll_answers hs (hs.drOk d hd).2
    simp only [hts]
    cases stallReason d.opcode s <;> exact ⟨_, rfl⟩

/-- Every instruction of the program is legal, so Fetch refuses none (R384). -/
theorem fetch_answers : ∃ t, fetch s = .next t := by
  obtain ⟨⟨-, hprog⟩, -⟩ := hs
  unfold fetch
  split
  · exact ⟨_, rfl⟩
  · split
    · exact ⟨_, rfl⟩
    · cases hi : instrAt s s.pc with
      | none => exact ⟨_, rfl⟩
      | some i =>
        have hmem : i ∈ s.prog := by
          unfold instrAt at hi
          split at hi
          · exact List.mem_of_getElem? hi
          · cases hi
        exact ⟨_, if_pos (hprog i hmem)⟩

end

/-! ### Commit -/

/-- Distinct registers that are not free can be freed (R138). -/
theorem freeRegs_answers {ps : List Nat} {s : State} (hnodup : ps.Nodup) (h : ∀ p ∈ ps, s.free[p]? = some false) :
    ∃ t, freeRegs ps s = .next t := by
  induction ps generalizing s with
  | nil => exact ⟨s, rfl⟩
  | cons p ps ih =>
    obtain ⟨hp, hps⟩ := List.forall_mem_cons.1 h
    obtain ⟨hnot, hnodup⟩ := List.nodup_cons.1 hnodup
    obtain ⟨t, ht⟩ := ih (s := { s with free := s.free.set p true }) hnodup fun q hq => by
      have hne : p ≠ q := fun heq => hnot (heq ▸ hq)
      simpa [hne] using hps q hq
    exact ⟨t, seq_eq_next.2 ⟨_, freeReg_eq_next.2 ⟨hp, rfl⟩, ht⟩⟩

section
variable {s : State} (hs : EngineInv s)
include hs

/-- A register in use is not free (R25). -/
theorem free_of_mem_owned {p : Nat} (hp : p ∈ owned s) : s.free[p]? = some false := by
  obtain ⟨-, hbound, hpool, -⟩ := hs.coupled.rename
  simpa [hp] using hpool p (hbound p hp)

/-- The destinations in flight are distinct and not free, so a flush can free them (R138, R328). -/
theorem flush_answers (ck : Checkpoint) (n : Word) : ∃ t, flush ck n s = .next t := by
  have hperm := perm_robDests hs.coupled.queues
  obtain ⟨hnodup, -⟩ := hs.coupled.rename
  rw [owned_eq] at hnodup
  obtain ⟨t, ht⟩ := freeRegs_answers (s := s) (hperm.nodup_iff.1 (List.nodup_append.1 hnodup).2.1) fun p hp => by
    refine free_of_mem_owned hs ?_
    rw [owned_eq]
    exact List.mem_append_right _ (hperm.mem_iff.2 hp)
  exact ⟨_, seq_eq_next.2 ⟨t, ht, rfl⟩⟩

section
variable {e : RobEntry} (he : robAt s s.robHead = some e)
include he

theorem robInOrder_of_head : ∃ R, robInOrder s = (s.robHead, e) :: R := ⟨_, ringEntries_pop hs.coupled.queues.rob he⟩

/-- The head's previous register is a committed one, so it can be freed (R47 (f), R134, R138). -/
theorem commitDest_answers : ∃ t, commitDest e s = .next t := by
  obtain ⟨-, -, -, hrrat, -⟩ := hs.shape
  obtain ⟨hpd, -, hrd⟩ := head_entries hs.coupled he
  unfold commitDest
  cases hd : hasDest e.opcode with
  | false => exact ⟨s, rfl⟩
  | true =>
    obtain ⟨p, hp⟩ := Option.isSome_iff_exists.1 (hpd.trans hd)
    have hlt : e.rd < s.rrat.length := hrrat ▸ hrd hd
    have hprev : e.prev = some s.rrat[e.rd] := (head_prev hs.coupled he (by simp [hp])).trans (List.getElem?_eq_getElem hlt)
    have hfree := free_of_mem_owned hs (List.mem_append_left _ (List.getElem_mem hlt))
    simp only [if_true, hp, hprev]
    exact ⟨_, ratRetire_eq_next.2 ⟨hlt, hfree, rfl⟩⟩

/-- A memory operation at the head has the LSQ's head entry, and a store that commits has an address in range (R47 (b), R290, R324). -/
theorem lsqHead_of_head (hc : e.complete = true) (hf : e.fault = false) (hu : usesLsq e.opcode = true) :
    ∃ q, lsqAt s s.lsqHead = some q ∧ (isStoreOp e.opcode = true → inData s q.addr = true) := by
  have hcoupled := hs.coupled
  obtain ⟨R, hR⟩ := robInOrder_of_head hs he
  obtain ⟨q, hq⟩ : ∃ q, lsqAt s s.lsqHead = some q := by
    have horder := hcoupled.order
    rw [LsqOrder, hR, List.filter_cons_of_pos (by exact hu)] at horder
    refine Option.isSome_iff_exists.1 (hcoupled.queues.lsq.head_occupied.trans (decide_eq_true (Nat.pos_of_ne_zero fun h0 => ?_)))
    simp [lsqInOrder, h0] at horder
  refine ⟨q, hq, fun hst => ?_⟩
  have hi := hcoupled.instr _ e he List.not_mem_nil
  obtain ⟨hstore, -, hdone, haddr, hfault, -⟩ := lsqAgrees_iff.1 (hi.lsq _ q hq (lsqHead_rob hcoupled he hu hq))
  rw [hst] at hstore
  have hvalid : q.addrValid = true := by simpa [hstore, hdone, hc] using haddr
  simpa [hf, hvalid] using hfault

/-- The bottom checkpoint is that of a branch at the head (R47 (e), R259). -/
theorem bisOldest_of_head (hb : isBranch e.opcode = true) : ∃ ck, bisOldest s.robHead s = some ck := by
  obtain ⟨R, hR⟩ := robInOrder_of_head hs he
  obtain ⟨ck, l, hbis, -⟩ := head_checkpoint hs.coupled he hb
  obtain ⟨-, -, -, -, -, hbranches, -⟩ := hs.coupled.rename
  rw [hR, List.filter_cons_of_pos (by exact hb), hbis] at hbranches
  have hrob : ck.rob = s.robHead := (List.cons.inj hbranches).1
  exact ⟨ck, by simp [bisOldest, hbis, hrob]⟩

/-- The destination's retirement leaves the LSQ alone, so the memory part finds what it needs (R323, R324). -/
theorem commitMem_answers {a : State} (ha : commitDest e s = .next a) (hc : e.complete = true) (hf : e.fault = false) :
    ∃ b, commitMem e a = .next b := by
  obtain ⟨hpd, hprev, -⟩ := head_entries hs.coupled he
  rw [commitDest_eq hpd hprev ha]
  unfold commitMem
  cases hu : usesLsq e.opcode with
  | false => exact ⟨_, rfl⟩
  | true =>
    obtain ⟨q, hq, hin⟩ := lsqHead_of_head hs he hc hf hu
    rw [lsqAt] at hq
    cases hst : isStoreOp e.opcode with
    | false =>
      simp only [if_true, lsqAt, hq]
      exact ⟨_, rfl⟩
    | true =>
      simp only [if_true, lsqAt, hq]
      exact ⟨_, seq_eq_next.2 ⟨_, memWrite_eq_next.2 ⟨hin hst, rfl⟩, rfl⟩⟩

theorem retire_answers (hc : e.complete = true) (hf : e.fault = false) : ∃ t, retire e s = .next t := by
  obtain ⟨hpd, hprev, -⟩ := head_entries hs.coupled he
  obtain ⟨a, ha⟩ := commitDest_answers hs he
  obtain ⟨b, hb⟩ := commitMem_answers hs he ha hc hf
  simp only [retire, ha, hb, seq_next]
  cases hbr : isBranch e.opcode with
  | false => exact ⟨_, rfl⟩
  | true =>
    obtain ⟨ck, hck⟩ := bisOldest_of_head hs he hbr
    have hckb : bisOldest s.robHead b = some ck := by
      rw [commitMem_eq hb, commitDest_eq hpd hprev ha]
      exact hck
    simp only [if_true, hckb]
    split
    · exact flush_answers (commitHead_engineInv hs he ha hb hc hf) ck _
    · exact ⟨_, rfl⟩

end

theorem commit_answers : ∃ t, commit s = .next t := by
  unfold commit
  split
  · exact ⟨s, rfl⟩
  · rename_i h0
    obtain ⟨e, he⟩ := Option.isSome_iff_exists.1
      (hs.coupled.queues.rob.head_occupied.trans (decide_eq_true (Nat.pos_of_ne_zero h0)))
    replace he : robAt s s.robHead = some e := he
    simp only [he]
    cases hc : e.complete with
    | false => exact ⟨s, rfl⟩
    | true =>
      cases hf : e.fault with
      | true => exact ⟨_, rfl⟩
      | false => exact retire_answers hs he hc hf

end

/-! ### The tick -/

theorem commit_goesOn : GoesOn commit := goesOn_of_answers commit_engineInv commit_answers

theorem evalUnit_goesOn (c : UnitClass) : GoesOn (evalUnit c) := goesOn_of_answers evalUnit_engineInv (evalUnit_answers · c)

theorem issueClass_goesOn (c : UnitClass) : GoesOn (issueClass c) := goesOn_of_answers issueClass_engineInv (issueClass_answers · c)

theorem evalUnits_goesOn : GoesOn evalUnits :=
  (evalUnit_goesOn .mem).seq ((evalUnit_goesOn .br).seq ((evalUnit_goesOn .mul).seq (evalUnit_goesOn .int)))

theorem issue_goesOn : GoesOn issue :=
  (issueClass_goesOn .mem).seq ((issueClass_goesOn .br).seq ((issueClass_goesOn .mul).seq (issueClass_goesOn .int)))

theorem beforeFetch_goesOn : GoesOn beforeFetch :=
  (goesOn_of_answers lsqLoadAccess_engineInv lsqLoadAccess_answers).seq
    (evalUnits_goesOn.seq (issue_goesOn.seq (goesOn_of_answers dispatch_engineInv dispatch_answers)))

/-- The stages after commit, and the tick count (R360). -/
theorem stages_goesOn : GoesOn fun s => seq (beforeFetch s) fun t => seq (fetch t) fun u => .next (bumpCycle u) :=
  beforeFetch_goesOn.seq ((goesOn_of_answers fetch_engineInv fetch_answers).seq fun s hs => ⟨bumpCycle s, rfl, hs⟩)

theorem tickStages_goesOn : GoesOn tickStages := by
  refine commit_goesOn.seq fun s hs => ?_
  split
  · exact ⟨bumpCycle s, rfl, hs⟩
  · exact stages_goesOn s hs

end Sys2Proof.Machine

section
open Sys2Proof Sys2Proof.Machine

/-- Settles O55: each stage of the tick finds its preconditions in the invariant and hands the invariant on to the next. -/
theorem invNeverStops : Obligations.InvNeverStops := by
  intro s hs
  change ∃ t, tick s = .next t
  unfold tick
  split
  · exact ⟨s, rfl⟩
  · obtain ⟨t, ht, -⟩ := tickStages_goesOn s hs
    exact ⟨t, ht⟩

end

/-! ## Waiting for a register

SUPPORT. What a meaning with a destination does when no physical register is free (R155, R156, R381). -/

namespace Sys2Proof.Machine

theorem writeBack_of_noFree {s : State} (hp : pickFree s = none) (rd : Nat) (v : Word) :
    writeBack rd v s = .next (stallRegister s) := by rw [writeBack, hp]

theorem loadFrom_of_inData {s : State} {a : Word} (ha : a.toNat < s.cfg.dataMemSize) (rd : Nat) :
    loadFrom rd a s = writeBack rd (memRead s a) s := if_pos (decide_eq_true ha)

end Sys2Proof.Machine

section
open Sys2Proof Sys2Proof.Machine

/-- Settles O18: every instruction with a destination ends in `writeBack`, a load through the range check. -/
theorem noFreeRegisterWaits : Obligations.NoFreeRegisterWaits := by
  intro i s hwf hd hp haddr
  cases i with
  | add | sub | and | or | xor | mul | movc => exact (ifWellFormed_of hwf).trans (writeBack_of_noFree hp _ _)
  | load | ldr =>
    exact (ifWellFormed_of hwf).trans ((loadFrom_of_inData (haddr _ rfl) _).trans (writeBack_of_noFree hp _ _))
  | store | str | bz | bnz | jump | halt => cases hd

end

/-! ## Fetch

SUPPORT. Which pc values name an instruction, and what Fetch does in each of its cases (R150, R151). -/

namespace Sys2Proof.Machine

theorem inRange_iff {s : State} {a : Word} :
    inRange s a = true ↔ codeOffset s a % 4 = 0 ∧ codeOffset s a / 4 < s.prog.length := by
  simp only [inRange, Bool.and_eq_true, decide_eq_true_eq]
  rfl

/-- A pc in range names an instruction of the program (R71, R151). -/
theorem instrAt_of_inRange {s : State} {a : Word} (h : inRange s a = true) :
    ∃ i, s.prog[codeOffset s a / 4]? = some i ∧ instrAt s a = some i :=
  have hi := List.getElem?_eq_getElem (inRange_iff.1 h).2
  ⟨_, hi, (if_pos h).trans hi⟩

theorem instrAt_of_not_inRange {s : State} {a : Word} (h : inRange s a = false) : instrAt s a = none := by simp [instrAt, h]

section
variable {s : State}

theorem fetch_of_recover (hf : s.fetchRecover = true) : fetch s = .next { s with fetchRecover := false } := if_pos hf

section
variable (hf : s.fetchRecover = false)
include hf

theorem fetch_of_busy (hd : s.dr ≠ none) : fetch s = .next s := by
  simp [fetch, hf, Option.isSome_iff_ne_none.2 hd]

theorem fetch_of_noInstr (hd : s.dr = none) (hi : instrAt s s.pc = none) : fetch s = .next s := by
  simp [fetch, hf, hd, hi]

theorem fetch_of_instr {i : Instr} (hd : s.dr = none) (hi : instrAt s s.pc = some i) (hwf : i.wellFormed s.cfg.numArch = true) :
    fetch s = .next { s with dr := some (drOf s.pc i), pc := nextSeq s.pc } := by
  simp [fetch, hf, hd, hi, hwf]

end

end

end Sys2Proof.Machine

section
open Sys2Proof Sys2Proof.Machine

/-- Settles O24: `INSTR_WIDTH` is 4. -/
theorem inRangeIff : Obligations.InRangeIff := fun _ _ => inRange_iff

/-- Settles O25, case by case of Fetch; in the last the pc names an instruction of the program, which is well-formed. -/
theorem fetchReadsNext : Obligations.FetchReadsNext := by
  intro s hprog
  refine ⟨fetch_of_recover, fetch_of_busy, fun hf hd hr => fetch_of_noInstr hf hd (instrAt_of_not_inRange hr),
    fun hf hd hr => ?_⟩
  obtain ⟨i, hget, hi⟩ := instrAt_of_inRange hr
  exact ⟨i, hget, fetch_of_instr hf hd hi (hprog i (List.mem_of_getElem? hget))⟩

end

/-! ## The tick of an engine with nothing in flight

SUPPORT. Every stage before Fetch finds nothing to do and leaves the engine as it is (R47 (d), R360). -/

namespace Sys2Proof.Machine

/-! ### Empty tables -/

theorem lastOp_of_empty {l : List (Option UnitLatch)} (h : ∀ x ∈ l, x = none) : lastOp l = none := by
  unfold lastOp
  cases hl : l.getLast? with
  | none => rfl
  | some x => exact h x (List.mem_of_getLast? hl)

theorem advance_of_empty {l : List (Option UnitLatch)} (h : ∀ x ∈ l, x = none) : advance l = l := by
  induction l with
  | nil => rfl
  | cons x l ih =>
    obtain ⟨rfl, hl⟩ := List.forall_mem_cons.1 h
    cases l with
    | nil => rfl
    | cons y l => rw [advance, ih hl]

theorem oldestOf_of_empty {ok : IqEntry → Bool} {age : IqEntry → Nat} {q : Nat} {l : List (Option IqEntry)}
    (h : ∀ x ∈ l, x = none) : oldestOf ok age q l = none := by
  induction l generalizing q with
  | nil => rfl
  | cons x l ih =>
    obtain ⟨rfl, hl⟩ := List.forall_mem_cons.1 h
    exact ih hl

/-! ### The stages -/

theorem setUnit_unitStages (c : UnitClass) (s : State) : setUnit c (unitStages c s) s = s := by cases c <;> rfl

section
variable {s : State}

theorem commit_of_empty (h : s.robCount = 0) : commit s = .next s := if_pos h

theorem lsqLoadAccess_of_empty (h : s.lsqCount = 0) : lsqLoadAccess s = .next s := by
  simp [lsqLoadAccess, lsqInOrder, h, firstEligible]

theorem evalUnit_of_empty {c : UnitClass} (h : ∀ x ∈ unitStages c s, x = none) : evalUnit c s = .next s := by
  simp [evalUnit, lastOp_of_empty h, advance_of_empty h, setUnit_unitStages]

theorem issueClass_of_empty (c : UnitClass) (h : ∀ x ∈ s.iq, x = none) : issueClass c s = .next s := by
  simp [issueClass, selectFor, oldestOf_of_empty h]

theorem dispatch_of_noLatch (h : s.dr = none) : dispatch s = .next { s with lastStall := .none } := by rw [dispatch, h]

/-- With nothing in flight and an empty latch the stages before Fetch record that nothing stalled, and no more (R163, R360). -/
theorem beforeFetch_of_idle (h : NothingInFlight s) (hd : s.dr = none) : beforeFetch s = .next { s with lastStall := .none } := by
  obtain ⟨-, hlsq, -, -, hiq, hint, hmul, hbr, hmem, -⟩ := h
  have hissue := fun c => issueClass_of_empty c hiq
  exact beforeFetch_eq_next.2 ⟨s, s, s, s, s, s, s, s, s, lsqLoadAccess_of_empty hlsq, evalUnit_of_empty hmem,
    evalUnit_of_empty hbr, evalUnit_of_empty hmul, evalUnit_of_empty hint, hissue .mem, hissue .br, hissue .mul, hissue .int,
    dispatch_of_noLatch hd⟩

/-- A tick that neither finds the engine done nor raises the error runs every stage and counts the cycle (R360). -/
theorem step_of_stages {a b c : State} (hd : done s = false) (ha : commit s = .next a) (herr : a.error = none)
    (hb : beforeFetch a = .next b) (hc : fetch b = .next c) : step s = .next (bumpCycle c) := by
  simp [step, tick, hd, tickStages, ha, herr, hb, hc]

end

end Sys2Proof.Machine

section
open Sys2Proof Sys2Proof.Machine

/-- Settles O48: commit and the stages before Fetch are idle, and Fetch reads the instruction at the pc. -/
theorem stepFetchesInstructionAtPc : Obligations.StepFetchesInstructionAtPc := by
  intro s i hidle hf hdr hd hi hwf
  obtain ⟨-, herr⟩ := halted_and_error_of_not_done hd
  have hfetch := fetch_of_instr (s := { s with lastStall := .none }) hf hdr hi hwf
  exact step_of_stages hd (commit_of_empty hidle.1) herr (beforeFetch_of_idle hidle hdr) hfetch

end

/-! ## Dispatch

SUPPORT. The availability check and its two stalls (R154 to R156), the slot the new IQ entry takes (R161), the sources (R157), the
destination (R158), and a branch's prediction (R162). -/

namespace Sys2Proof.Machine

/-! ### The availability check -/

section
variable {o : Opcode} {s : State}

theorem stallReason_of_noRegister (h : hasDest o = true ∧ pickFree s = none) : stallReason o s = .registerExhausted := by
  simp [stallReason, h]

/-- A queue that the opcode needs is full (R155). -/
theorem queueFull_iff : (robFull s || iqFull s || (usesLsq o && lsqFull s) || (isBranch o && bisFull s)) = true ↔
    s.robCount = s.cfg.robSize ∨ (∀ x ∈ s.iq, x.isSome = true) ∨ (usesLsq o = true ∧ s.lsqCount = s.cfg.lsqSize) ∨
      (isBranch o = true ∧ s.bis.length = s.cfg.bisSize) := by
  simp [robFull, iqFull, lsqFull, bisFull, or_assoc]

/-- With a register for the destination, a full queue alone decides about a stall (R155). -/
theorem stallReason_of_register (h : ¬ (hasDest o = true ∧ pickFree s = none)) : stallReason o s =
    if robFull s || iqFull s || (usesLsq o && lsqFull s) || (isBranch o && bisFull s) then .structuralStall else .none :=
  if_neg (by simpa using h)

end

section
variable {s : State} {d : DrLatch} (hd : s.dr = some d)
include hd

theorem dispatch_of_stall {r : Stall} (hr : stallReason d.opcode s = r) (hne : r ≠ .none) :
    dispatch s = .next (stallDispatch r d s) := by
  cases r with
  | none => exact absurd rfl hne
  | registerExhausted | structuralStall => simp [dispatch, hd, hr]

theorem dispatch_of_room {src : List SrcTag} (hr : stallReason d.opcode s = .none) (hsrc : sourceTags d s = some src) :
    dispatch s = .next (dispatchWith d src s) := by simp [dispatch, hd, hr, hsrc]

end

/-! ### The issue-queue slot -/

/-- The new entry takes the lowest empty slot (R161). -/
theorem insertIq_eq_set (e : IqEntry) {l : List (Option IqEntry)} (h : l.all Option.isSome = false) :
    ∃ q, l[q]? = some none ∧ (∀ k < q, l[k]? ≠ some none) ∧ insertIq e l = l.set q (some e) := by
  induction l with
  | nil => cases h
  | cons x l ih =>
    cases x with
    | none => exact ⟨0, rfl, fun k hk => absurd hk (Nat.not_lt_zero k), rfl⟩
    | some y =>
      obtain ⟨q, hq, hlow, hset⟩ := ih h
      refine ⟨q + 1, hq, fun k hk => ?_, congrArg (some y :: ·) hset⟩
      cases k with
      | zero => exact nofun
      | succ k => exact hlow k (Nat.lt_of_succ_lt_succ hk)

/-! ### The sources -/

/-- A lookup gives the mapping and its valid bit (R131). -/
theorem ratLookup_eq_some {s : State} {i : Nat} {x : SrcTag} :
    ratLookup s i = some x ↔ s.rat[i]? = some x.p ∧ prfReady s x.p = some x.ready := by
  unfold ratLookup
  cases s.rat[i]? with
  | none => simp
  | some p =>
    simp only [Option.map_eq_some_iff, Option.some.injEq]
    constructor
    · rintro ⟨b, hb, rfl⟩
      exact ⟨rfl, hb⟩
    · rintro ⟨rfl, hx⟩
      exact ⟨x.ready, hx, rfl⟩

/-- The sources are the lookups of the registers, one by one (R157). -/
theorem lookupAll_eq_some_iff {s : State} {is : List Nat} {ts : List SrcTag} :
    lookupAll s is = some ts ↔ List.Forall₂ (fun i t => ratLookup s i = some t) is ts := by
  induction is generalizing ts with
  | nil => simp [lookupAll, eq_comm]
  | cons i is ih =>
    rw [lookupAll, List.forall₂_cons_left_iff]
    cases ratLookup s i with
    | none => simp
    | some t =>
      simp only [← ih]
      cases lookupAll s is <;> simp [eq_comm]

/-- The zero-condition source, if there is one, with its valid bit (R132). -/
theorem ratLookupZ_eq_some {s : State} {ts : List SrcTag} (h : ratLookupZ s = some ts) :
    ts.map SrcTag.p = s.zsrc.toList ∧ ∀ x ∈ ts, prfReady s x.p = some x.ready := by
  unfold ratLookupZ at h
  split at h
  next hz =>
    obtain rfl := Option.some.inj h
    simp [hz]
  next p hz =>
    obtain ⟨b, hb, rfl⟩ := Option.map_eq_some_iff.1 h
    simp [hz, hb]

section
variable {s : State}

/-- A register of the pool has a valid bit (R24). -/
theorem prfReady_of_lt {p : Nat} (hp : p < s.prf.length) : ∃ b, prfReady s p = some b :=
  ⟨_, congrArg (Option.map PhysReg.valid) (List.getElem?_eq_getElem hp)⟩

theorem ratLookup_of_lt {i : Nat} (hi : i < s.rat.length) (hrat : ∀ p ∈ s.rat, p < s.prf.length) :
    ∃ t, ratLookup s i = some t := by
  obtain ⟨b, hb⟩ := prfReady_of_lt (hrat _ (List.getElem_mem hi))
  exact ⟨⟨s.rat[i], b⟩, ratLookup_eq_some.2 ⟨List.getElem?_eq_getElem hi, hb⟩⟩

theorem lookupAll_of_lt {is : List Nat} (his : ∀ i ∈ is, i < s.rat.length) (hrat : ∀ p ∈ s.rat, p < s.prf.length) :
    ∃ ts, lookupAll s is = some ts := by
  induction is with
  | nil => exact ⟨[], rfl⟩
  | cons i is ih =>
    obtain ⟨hi, his⟩ := List.forall_mem_cons.1 his
    obtain ⟨t, ht⟩ := ratLookup_of_lt hi hrat
    obtain ⟨ts, hts⟩ := ih his
    exact ⟨t :: ts, lookupAll_eq_some_iff.2 (.cons ht (lookupAll_eq_some_iff.1 hts))⟩

theorem ratLookupZ_of_lt (hz : ∀ p ∈ s.zsrc, p < s.prf.length) : ∃ ts, ratLookupZ s = some ts := by
  unfold ratLookupZ
  cases hzs : s.zsrc with
  | none => exact ⟨[], rfl⟩
  | some p =>
    obtain ⟨b, hb⟩ := prfReady_of_lt (hz p hzs)
    exact ⟨[⟨p, b⟩], by simp [hb]⟩

/-- Registers and mappings that exist have sources (R131, R132, R157). -/
theorem sourceTags_of_lt {d : DrLatch} (hsrc : ∀ r ∈ srcRegs d, r < s.rat.length) (hrat : ∀ p ∈ s.rat, p < s.prf.length)
    (hz : ∀ p ∈ s.zsrc, p < s.prf.length) : ∃ src, sourceTags d s = some src := by
  unfold sourceTags
  split
  · exact ratLookupZ_of_lt hz
  · exact lookupAll_of_lt hsrc hrat

end

section
variable {d : DrLatch} {s : State} {src : List SrcTag} (h : sourceTags d s = some src)
include h

/-- An opcode that does not read the zero condition has one source per register field, in slot order (R157). -/
theorem sourceTags_registers (hz : readsZero d.opcode = false) : src.length = (srcRegs d).length ∧
    ∀ (k r : Nat), (srcRegs d)[k]? = some r → ∃ x, src[k]? = some x ∧
      s.rat[r]? = some x.p ∧ prfReady s x.p = some x.ready := by
  rw [sourceTags, hz, if_neg Bool.false_ne_true, lookupAll_eq_some_iff, List.forall₂_iff_get] at h
  obtain ⟨hlen, hall⟩ := h
  refine ⟨hlen.symm, fun k r hk => ?_⟩
  obtain ⟨hlt, rfl⟩ := List.getElem?_eq_some_iff.1 hk
  have hlt' : k < src.length := hlen ▸ hlt
  exact ⟨src[k], List.getElem?_eq_getElem hlt', ratLookup_eq_some.1 (hall k hlt hlt')⟩

/-- BZ and BNZ have the zero-condition source, if there is one (R157). -/
theorem sourceTags_zero (hz : readsZero d.opcode = true) :
    src.map SrcTag.p = s.zsrc.toList ∧ ∀ x ∈ src, prfReady s x.p = some x.ready := by
  rw [sourceTags, hz, if_pos rfl] at h
  exact ratLookupZ_eq_some h

end

/-! ### The destination -/

section
variable {d : DrLatch} {s : State}

/-- Without a stall there is a register for the destination (R155, R158). -/
theorem destReg_of_room (hroom : stallReason d.opcode s = .none) (hd : hasDest d.opcode = true) :
    ∃ p, pickFree s = some p ∧ destReg d s = some p := by
  obtain ⟨hpick, -⟩ := stallReason_eq_none hroom
  obtain ⟨p, hp⟩ := hpick hd
  exact ⟨p, hp, (if_pos hd).trans hp⟩

theorem destReg_of_noDest (hd : hasDest d.opcode = false) : destReg d s = none := by simp [destReg, hd]

/-- The new destination is the mapping of `rd` and the zero-condition source, no longer free and not valid (R133, R158). -/
theorem dispatchWith_dest {p : Nat} (hp : destReg d s = some p) (src : List SrcTag) :
    (dispatchWith d src s).rat = s.rat.set d.rd p ∧ (dispatchWith d src s).zsrc = some p ∧
      (dispatchWith d src s).free = s.free.set p false ∧
      (dispatchWith d src s).prf = s.prf.modify p PhysReg.invalidate := by
  simp [dispatchWith_eq, newRob, dispatchedEntry, RobEntry.mapAfter, RobEntry.zsrcAfter, hp]

/-- Without a destination nothing is renamed (R158). -/
theorem dispatchWith_noDest (hp : destReg d s = none) (src : List SrcTag) :
    (dispatchWith d src s).rat = s.rat ∧ (dispatchWith d src s).zsrc = s.zsrc ∧ (dispatchWith d src s).free = s.free ∧
      (dispatchWith d src s).prf = s.prf := by
  simp [dispatchWith_eq, newRob, dispatchedEntry, RobEntry.mapAfter, RobEntry.zsrcAfter, hp]

/-! ### The queues -/

/-- The IQ entry of a dispatch is in the lowest slot that was empty (R161). -/
theorem dispatchWith_iq (hroom : stallReason d.opcode s = .none) (src : List SrcTag) :
    ∃ q, s.iq[q]? = some none ∧ (∀ k < q, s.iq[k]? ≠ some none) ∧
      (dispatchWith d src s).iq = s.iq.set q (some (newIq d src s)) := by
  obtain ⟨-, -, hiq, -⟩ := stallReason_eq_none hroom
  rw [dispatchWith_eq]
  exact insertIq_eq_set _ hiq

/-- The ROB entry of a dispatch is in the tail slot (R159). -/
theorem robAt_dispatchWith_tail (htail : s.robTail < s.rob.length) (src : List SrcTag) :
    robAt (dispatchWith d src s) s.robTail = some (newRob d s) := by
  simp [dispatchWith_eq, robAt, htail]

/-! ### A branch's prediction -/

section
variable (hb : isBranch d.opcode = true)
include hb

theorem predict_of_taken {target : Word} (hl : btbLookup s d.pc = (true, true, target)) : predict d s = (true, target) := by
  simp [predict, hb, hl]

theorem predict_of_notTaken (hl : (btbLookup s d.pc).1 = false ∨ (btbLookup s d.pc).2.1 = false) : predict d s = (false, 0) := by
  simpa [predict, hb, imp_iff_not_or] using hl

end

theorem predict_of_not_isBranch (hb : isBranch d.opcode = false) : predict d s = (false, 0) := by simp [predict, hb]

/-- An instruction predicted taken sends the pc to its target (R162). -/
theorem pc_dispatchWith (src : List SrcTag) :
    (dispatchWith d src s).pc = if isBranch d.opcode && (predict d s).1 then (predict d s).2 else s.pc := by
  rw [dispatchWith_eq]

end

end Sys2Proof.Machine

section
open Sys2Proof Sys2Proof.Machine

/-- Settles O26: the check is the register's first and the queues' second. -/
theorem dispatchStalls : Obligations.DispatchStalls := by
  intro s d hd full
  refine ⟨fun hnone => dispatch_of_stall hd (stallReason_of_noRegister hnone) nofun, fun hreg hfull => ?_, fun hreg hroom => ?_⟩
  · exact dispatch_of_stall hd ((stallReason_of_register hreg).trans (if_pos (queueFull_iff.2 hfull))) nofun
  · exact (stallReason_of_register hreg).trans (if_neg (mt queueFull_iff.1 hroom))

/-- Settles O27: the IQ entry is made of the lookups on the map before; the new register was free, so it is none of the sources in
use. -/
theorem sourcesLookedUpFirst : Obligations.SourcesLookedUpFirst := by
  intro s d hd hroom hshape hrd hregs hmap hzsrc
  obtain ⟨hprf, -, hrat, -⟩ := hshape
  rw [← hprf] at hmap hzsrc
  rw [← hrat] at hrd hregs
  obtain ⟨src, hsrc⟩ := sourceTags_of_lt hregs hmap hzsrc
  obtain ⟨q, hq, -, hiq⟩ := dispatchWith_iq hroom src
  have hlt : q < s.iq.length := (List.getElem?_eq_some_iff.1 hq).1
  refine ⟨dispatchWith d src s, q, newIq d src s, dispatch_of_room hd hroom hsrc, hq, by simp [hiq, hlt], rfl, hsrc,
    fun hz => ?registers, sourceTags_zero hsrc, fun hdest => ?dest⟩
  case registers =>
    obtain ⟨hlen, hall⟩ := sourceTags_registers hsrc hz
    refine ⟨hlen, fun k r hk => ?_⟩
    obtain ⟨x, hx, hmapped, hready⟩ := hall k r hk
    exact ⟨x, x.p, hx, hmapped, rfl, hready⟩
  case dest =>
    obtain ⟨p, hp, hpd⟩ := destReg_of_room hroom hdest
    obtain ⟨hrat', -⟩ := dispatchWith_dest hpd src
    obtain ⟨hfree, -⟩ := pickFree_eq_some.1 hp
    refine ⟨p, hrat', by simp [hrat', hrd hdest], hpd, fun x _ hx hxp => ?_⟩
    rw [hxp, hfree] at hx
    cases hx

/-- Settles O28, part by part of the state that `dispatchWith_eq` writes out. -/
theorem dispatchAllocates : Obligations.DispatchAllocates := by
  intro s d src hd hroom hsrc
  refine ⟨dispatchWith d src s, dispatch_of_room hd hroom hsrc, fun hdest => ?dest, fun hdest => ?noDest, ?_⟩
  case dest =>
    obtain ⟨p, hp, hpd⟩ := destReg_of_room hroom hdest
    exact ⟨p, hp, hpd, if_pos hdest, dispatchWith_dest hpd src⟩
  case noDest =>
    have hpd : destReg d s = none := destReg_of_noDest hdest
    exact ⟨hpd, by simp [destPrev, hdest], dispatchWith_noDest hpd src⟩
  have hiq := dispatchWith_iq hroom src
  rw [dispatchWith_eq] at hiq ⊢
  refine ⟨rfl, rfl, rfl, fun hu => ⟨if_pos hu, if_pos hu, if_pos hu⟩, fun hu => by simp [hu], hiq, ?frame⟩
  case frame => and_intros <;> rfl

/-- Settles O29, case by case of the prediction. -/
theorem branchPredictsAndCheckpoints : Obligations.BranchPredictsAndCheckpoints := by
  intro s d src hd hroom hsrc htail
  have hbis := bis_dispatchWith d src s
  have hpc := pc_dispatchWith (d := d) (s := s) src
  refine ⟨dispatchWith d src s, newRob d s, dispatch_of_room hd hroom hsrc, robAt_dispatchWith_tail htail src,
    fun hb => ⟨fun target hl => ?taken, fun hl => ?notTaken, ?checkpoint⟩, fun hb => ?noBranch⟩
  case taken =>
    have hpred := predict_of_taken hb hl
    exact ⟨congrArg Prod.fst hpred, congrArg Prod.snd hpred, by simpa [hb, hpred] using hpc⟩
  case notTaken =>
    have hpred := predict_of_notTaken hb hl
    exact ⟨congrArg Prod.fst hpred, congrArg Prod.snd hpred, by simpa [hpred] using hpc⟩
  case checkpoint => simpa [hb] using hbis
  case noBranch =>
    have hpred := predict_of_not_isBranch (s := s) hb
    exact ⟨congrArg Prod.fst hpred, congrArg Prod.snd hpred, by simpa [hb] using hpc, by simpa [hb] using hbis⟩

end

/-! ## Select and issue

SUPPORT. No candidate is older than the one that select takes (R182), and what issue does with a busy and with an empty first stage
(R182, R183). -/

namespace Sys2Proof.Machine

/-- Where there is a candidate, one that is no younger is selected (R182). -/
theorem exists_oldestOf_le {ok : IqEntry → Bool} {age : IqEntry → Nat} {k : Nat} {l : List (Option IqEntry)} {x : IqEntry}
    (hx : some x ∈ l) (hok : ok x = true) : ∃ q e, oldestOf ok age k l = some (q, e) ∧ age e ≤ age x := by
  induction l generalizing k with
  | nil => cases hx
  | cons y l ih =>
    cases y with
    | none => exact ih (by simpa using hx)
    | some y =>
      rw [oldestOf]
      split
      next =>
        obtain hxy | hx := List.mem_cons.1 hx
        · obtain rfl := Option.some.inj hxy
          cases hrest : oldestOf ok age (k + 1) l with
          | none => exact ⟨k, x, rfl, le_rfl⟩
          | some z =>
            obtain ⟨q, e⟩ := z
            by_cases hage : age e < age x
            · exact ⟨q, e, if_pos hage, hage.le⟩
            · exact ⟨k, x, if_neg hage, le_rfl⟩
        · obtain ⟨q, e, hrest, hle⟩ := ih (k := k + 1) hx
          by_cases hage : age e < age y
          · exact ⟨q, e, by simp [hrest, hage], hle⟩
          · exact ⟨k, y, by simp [hrest, hage], (not_lt.1 hage).trans hle⟩
      next hy =>
        refine ih (List.mem_of_ne_of_mem ?_ hx)
        rintro ⟨⟩
        exact hy hok

section
variable {c : UnitClass} {s : State} {q : Nat} {e : IqEntry}

/-- What select asks of an entry for a class: it is of the class and its sources are ready (R181, R182). -/
theorem candidate_iff : (decide (unitClass e.opcode = c) && e.ready) = true ↔
    unitClass e.opcode = c ∧ ∀ t ∈ e.src, t.ready = true := by
  simp [IqEntry.ready]

/-- The selected entry stands in its slot, of the class and ready (R181, R182). -/
theorem selectFor_eq_some (h : selectFor c s = some (q, e)) :
    s.iq[q]? = some (some e) ∧ unitClass e.opcode = c ∧ ∀ t ∈ e.src, t.ready = true := by
  obtain ⟨-, hget, hok⟩ := oldestOf_eq_some h
  exact ⟨hget, candidate_iff.1 hok⟩

/-- Where there is a candidate of the class, one that is no younger is selected (R182). -/
theorem exists_selectFor_le (hget : s.iq[q]? = some (some e)) (hcand : unitClass e.opcode = c ∧ ∀ t ∈ e.src, t.ready = true) :
    ∃ q' e', selectFor c s = some (q', e') ∧ robAge s e'.rob ≤ robAge s e.rob :=
  exists_oldestOf_le (List.mem_of_getElem? hget) (candidate_iff.2 hcand)

/-- `prf_read` answers with the value of a register that is valid, and with nothing for another (R137). -/
theorem prfRead_eq_filter (s : State) (p : Nat) : prfRead s p = (s.prf[p]?.filter PhysReg.valid).map PhysReg.value := by
  unfold prfRead
  cases s.prf[p]? with
  | none => rfl
  | some r => cases hr : r.valid <;> simp [hr]

/-- The operands read from valid registers are their values (R137, R183). -/
theorem readOperands_of_valid {ts : List SrcTag} {vs : List Word}
    (h : ts.map (fun t => s.prf[t.p]?) = vs.map (fun v => some ⟨v, true⟩)) : readOperands s ts = .ok vs := by
  have hvalues := congrArg (List.map fun r => (r.filter PhysReg.valid).map PhysReg.value) h
  simp only [List.map_map, Function.comp_def, ← prfRead_eq_filter] at hvalues
  exact readOperands_eq_ok.2 hvalues

theorem issueClass_of_busy {op : UnitLatch} (h : (unitStages c s)[0]? = some (some op)) : issueClass c s = .next s := by
  simp [issueClass, stage1Free, h]

theorem issueClass_of_selected {vs : List Word} (hfree : (unitStages c s)[0]? = some none) (hsel : selectFor c s = some (q, e))
    (hread : readOperands s e.src = .ok vs) : issueClass c s =
      .next (setUnit c ((unitStages c s).set 0 (some (issueLatch e vs))) { s with iq := s.iq.set q none }) := by
  simp [issueClass, stage1Free, issueEntry, hfree, hsel, hread]

end

end Sys2Proof.Machine

section
open Sys2Proof Sys2Proof.Machine

/-- Settles O32: wherever there is a candidate, one that is no younger is selected. -/
theorem selectOldestReady : Obligations.SelectOldestReady := by
  intro s c candidate
  refine ⟨fun q e hsel => ?_, fun hnone q e hget hcand => ?_⟩
  · obtain ⟨hget, hcand⟩ := selectFor_eq_some hsel
    refine ⟨hget, hcand, fun q' e' hget' hcand' => ?_⟩
    obtain ⟨q₀, e₀, hsel₀, hle⟩ := exists_selectFor_le hget' hcand'
    cases hsel.symm.trans hsel₀
    exact hle
  · obtain ⟨q₀, e₀, hsel₀, -⟩ := exists_selectFor_le hget hcand
    cases hnone.symm.trans hsel₀

/-- Settles O33, with the latch that `issueLatch` writes. -/
theorem issueFillsStageOne : Obligations.IssueFillsStageOne := by
  intro s c
  refine ⟨fun op hbusy => issueClass_of_busy hbusy, fun q e vs hfree hsel hvalid => ?_⟩
  have hnext := issueClass_of_selected hfree hsel (readOperands_of_valid hvalid)
  refine ⟨_, hnext, ?iq, unitStages_setUnit_self _ _ _, fun c' hc => ?others, ?frame⟩
  case others => rw [unitStages_setUnit_ne hc, unitStages_withIq]
  case iq | frame => cases c <;> rfl

end

/-! ## The functional units

SUPPORT. What a wake-up does to a source slot (R180), what the last stage of a unit can change (R199), where a unit's operations are
after its evaluation (R196 to R198), and the result that the integer and multiply units deliver (R200, R201). -/

namespace Sys2Proof.Machine

/-! ### Wake-up -/

@[simp] theorem SrcTag.wake_p (p : Nat) (t : SrcTag) : (t.wake p).p = t.p := by
  unfold SrcTag.wake
  split <;> rfl

/-- A wake-up by tag `p` makes exactly the slots with that tag ready (R180). -/
@[simp] theorem SrcTag.wake_ready (p : Nat) (t : SrcTag) : (t.wake p).ready = (t.ready || decide (t.p = p)) := by
  unfold SrcTag.wake
  split <;> simp [*]

theorem IqEntry.wake_tags (p : Nat) (e : IqEntry) : (e.wake p).src.map SrcTag.p = e.src.map SrcTag.p := by
  simp [IqEntry.wake]

/-- Slot by slot, an entry is woken exactly where it has the tag (R180). -/
theorem IqEntry.wake_ready {p k : Nat} {e : IqEntry} {a b : SrcTag} (ha : e.src[k]? = some a)
    (hb : (e.wake p).src[k]? = some b) : b.ready = (a.ready || decide (a.p = p)) := by
  obtain rfl : a.wake p = b := by simpa [IqEntry.wake, ha] using hb
  exact a.wake_ready p

/-! ### The advance of a unit -/

section
variable {c : UnitClass} {op : UnitLatch} {s u : State}

/-- A last stage changes registers, issue queue, ROB and LSQ at most (R199, R253, R284). -/
theorem lastStage_frame (h : lastStage c op s = .next u) :
    ∃ prf iq rob lsq, u = { s with prf := prf, iq := iq, rob := rob, lsq := lsq } := by
  cases c with
  | mem =>
    obtain ⟨a, -, h⟩ := memLast_eq_next h
    obtain ⟨l, q, -, -, ⟨-, -, rfl⟩ | ⟨e, -, ⟨-, -, rfl⟩ | ⟨-, rfl⟩⟩⟩ := memRecord_eq_next h <;> exact ⟨_, _, _, _, rfl⟩
  | br =>
    obtain ⟨e, taken, target, -, -, rfl⟩ := branchLast_eq_next h
    exact ⟨_, _, _, _, rfl⟩
  | mul | int => obtain ⟨e, -, ⟨rfl, -⟩ | ⟨v, p, -, -, -, rfl⟩⟩ := aluLast_eq_next h <;> exact ⟨_, _, _, _, rfl⟩

theorem lastStage_unitStages (h : lastStage c op s = .next u) (c' : UnitClass) : unitStages c' u = unitStages c' s := by
  obtain ⟨prf, iq, rob, lsq, rfl⟩ := lastStage_frame h
  cases c' <;> rfl

/-- Every operation before the last stage moves one stage on, not stalled (R196). -/
theorem advance_of_getLast? {l : List (Option UnitLatch)} {x : Option UnitLatch} (h : l.getLast? = some x) :
    advance l = none :: l.dropLast.map (Option.map UnitLatch.moved) := by
  obtain ⟨l, rfl⟩ := List.getLast?_eq_some_iff.1 h
  rw [advance_append, List.dropLast_concat]

theorem evalUnit_of_idle (h : (unitStages c s).getLast? = some none) :
    evalUnit c s = .next (setUnit c (advance (unitStages c s)) s) := by simp [evalUnit, lastOp, h]

theorem evalUnit_of_busy (h : (unitStages c s).getLast? = some (some op)) (hu : lastStage c op s = .next u) :
    evalUnit c s = .next (setUnit c (advance (unitStages c s)) u) := by
  simp [evalUnit, lastOp, h, hu, lastStage_unitStages hu]

end

/-! ### The integer and multiply units -/

section
variable {op : UnitLatch} {s : State} {e : RobEntry}

/-- Without a result the last stage only completes the entry (R199, R201). -/
theorem aluLast_of_noResult (he : robAt s op.rob = some e) (hr : aluResult op = none) :
    aluLast op s = .next { s with rob := s.rob.set op.rob (some e.completed) } := by
  simpa [aluLast, hr] using robComplete_eq_next.2 ⟨e, he, rfl⟩

/-- A result goes to the destination and the waiting sources, then the entry completes (R199, R200, R201). -/
theorem aluLast_of_result {v : Word} {p : Nat} (he : robAt s op.rob = some e) (hr : aluResult op = some v) (hpd : op.pd = some p)
    (hready : prfReady s p = some false) : aluLast op s = .next { s with
      prf := s.prf.set p ⟨v, true⟩
      iq := s.iq.map (Option.map (IqEntry.wake p))
      rob := s.rob.set op.rob (some e.completed) } := by
  have hbus := (broadcast_eq_next (v := v)).2 ⟨hready, rfl⟩
  have hdone := robComplete_eq_next.2 ⟨e, (robAt_of_broadcast hbus).trans he, rfl⟩
  simp only [aluLast, hr, deliver, hpd]
  exact seq_eq_next.2 ⟨_, hbus, hdone⟩

end

theorem UnitLatch.val_of_pair {op : UnitLatch} {a b : Word} (h : op.vals = [a, b]) : op.val 1 = a ∧ op.val 2 = b := by
  simp [UnitLatch.val, h]

end Sys2Proof.Machine

section
open Sys2Proof Sys2Proof.Machine

/-- Settles O34: the advance sees the stages as they were before the last stage executed, and moves each operation into an empty
stage. -/
theorem unitsShiftEveryTick : Obligations.UnitsShiftEveryTick := by
  intro s c shifted
  refine ⟨fun hidle => ?_, fun op u hbusy hu => ⟨?_, unitStages_setUnit_self c shifted u, fun c' hc => ?_⟩⟩
  · rw [evalUnit_of_idle hidle, advance_of_getLast? hidle]
    rfl
  · rw [evalUnit_of_busy hbusy hu, advance_of_getLast? hbusy]
    rfl
  · rw [unitStages_setUnit_ne hc, lastStage_unitStages hu]

/-- Settles O31: a wake-up changes the ready bits of an entry's sources, slot by slot, and no tag. -/
theorem broadcastWakesConsumers : Obligations.BroadcastWakesConsumers := by
  intro s p v hready
  refine ⟨_, broadcast_eq_next.2 ⟨hready, rfl⟩, rfl, List.length_map .., fun q hq => ?_, fun q e hq => ?_⟩
  · simp [hq]
  · exact ⟨e.wake p, by simp [hq], rfl, e.wake_tags p, fun k a b ha hb => IqEntry.wake_ready ha hb⟩

/-- Settles O35: each opcode's result is what `aluResult` computes from the operands; HALT has none. -/
theorem aluLastStage : Obligations.AluLastStage := by
  intro s op p e a b v he
  refine ⟨fun hready hpd hop => aluLast_of_result he ?_ hpd hready, fun hhalt => aluLast_of_noResult he ?_⟩
  · obtain ⟨hvals, hop⟩ | ⟨hmovc, rfl⟩ := hop
    · obtain ⟨rfl, rfl⟩ := UnitLatch.val_of_pair hvals
      obtain ⟨ho, rfl⟩ | ⟨ho, rfl⟩ | ⟨ho, rfl⟩ | ⟨ho, rfl⟩ | ⟨ho, rfl⟩ | ⟨ho, rfl⟩ := hop <;> rw [aluResult, ho] <;> rfl
    · rw [aluResult, hmovc, movcValue]
  · rw [aluResult, hhalt]

end

/-! ## Results and the reference interpreter

SUPPORT. At an instruction boundary the register that `alloc()` chooses is nobody's, so writing it changes one architectural
register; what each shared operation of the meanings leaves is what the reference interpreter computes (R23, R139, R220, R383). -/

namespace Sys2Proof.Machine

/-! ### A destination written at an instruction boundary -/

section
variable {s t : State} {rd p prev : Nat} {v : Word}

theorem set_modify_same {α : Type} (l : List α) (k : Nat) (f : α → α) (a : α) : (l.modify k f).set k a = l.set k a := by
  rw [List.set_eq_modify, List.set_eq_modify, List.modify_modify_eq]
  rfl

/-- Of distinct registers a new one replaces exactly the old one. -/
theorem mem_set_nodup {l : List Nat} {k a b q : Nat} (hl : l.Nodup) (ha : a ∉ l) (hb : l[k]? = some b) (hq : q ∈ l.set k a) :
    q ≠ b ∧ (q = a ∨ q ∈ l) := by
  refine ⟨?_, (List.mem_or_eq_of_mem_set hq).symm⟩
  rintro rfl
  obtain ⟨j, hj⟩ := List.mem_iff_getElem?.1 hq
  have hklt : k < l.length := (List.getElem?_eq_some_iff.1 hb).1
  by_cases hkj : k = j
  · subst hkj
    obtain rfl : a = q := by simpa [hklt] using hj
    exact ha (List.mem_of_getElem? hb)
  · rw [List.getElem?_set_ne hkj] at hj
    exact hkj ((List.getElem?_inj hklt hl).1 (hb.trans hj.symm))

section
variable (hb : AtBoundary s) (hp : pickFree s = some p)
include hb hp

theorem AtBoundary.pickFree_notMem_rrat : p ∉ s.rrat := by
  obtain ⟨-, -, -, -, -, howned, -⟩ := hb
  intro hmem
  have hfree := (pickFree_eq_some.1 hp).1
  simp [howned p hmem] at hfree

theorem AtBoundary.pickFree_lt_prf : p < s.prf.length := by
  obtain ⟨hprf, hfree, -⟩ := hb
  rw [hprf, ← hfree]
  exact pickFree_lt hp

/-- The chosen register holds the value and is the mapping of `rd` (R48, R134). -/
theorem readReg_newMapping_same (hrd : rd < s.cfg.numArch) (hprf : t.prf = s.prf.set p ⟨v, true⟩)
    (hrrat : t.rrat = s.rrat.set rd p) : readReg t rd = v := by
  have hplt := hb.pickFree_lt_prf hp
  obtain ⟨-, -, hlen, -⟩ := hb
  simp [readReg, hrrat, hprf, hlen, hrd, hplt]

theorem readReg_newMapping_ne {i : Nat} (hi : i ≠ rd) (hprf : t.prf = s.prf.set p ⟨v, true⟩)
    (hrrat : t.rrat = s.rrat.set rd p) : readReg t i = readReg s i := by
  rw [readReg, hrrat, List.getElem?_set_ne hi.symm, readReg]
  cases hq : s.rrat[i]? with
  | none => rfl
  | some q =>
    have hne : p ≠ q := fun h => hb.pickFree_notMem_rrat hp (h ▸ List.mem_of_getElem? hq)
    simp [hprf, hne]

theorem zeroCond_of_newSource (hprf : t.prf = s.prf.set p ⟨v, true⟩) (hz : t.zsrc = some p) : zeroCond t = isZero v := by
  simp [zeroCond, hz, hprf, hb.pickFree_lt_prf hp]

/-- The chosen register and the previous one of `rd` change places, which leaves an instruction boundary (R25, R140). -/
theorem AtBoundary.of_newMapping (hprev : s.rrat[rd]? = some prev) (hcfg : t.cfg = s.cfg) (hprf : t.prf = s.prf.set p ⟨v, true⟩)
    (hfree : t.free = (s.free.set p false).set prev true) (hrat : t.rat = s.rat.set rd p)
    (hrrat : t.rrat = s.rrat.set rd p) : AtBoundary t := by
  have hpnew := hb.pickFree_notMem_rrat hp
  have hplt := pickFree_lt hp
  obtain ⟨hprfLen, hfreeLen, hrratLen, hmaps, hnodup, howned, -⟩ := hb
  have hprevlt : prev < s.free.length := (List.getElem?_eq_some_iff.1 (howned prev (List.mem_of_getElem? hprev))).1
  refine ⟨by simp [hprf, hcfg, hprfLen], by simp [hfree, hcfg, hfreeLen], by simp [hrrat, hcfg, hrratLen],
    by rw [hrat, hrrat, hmaps], hrrat ▸ hnodup.set hpnew, fun q hq => ?_,
    pickFree_isSome.2 ⟨prev, by simp [hfree, hprevlt]⟩⟩
  obtain ⟨hne, hq⟩ := mem_set_nodup hnodup hpnew hprev (hrrat ▸ hq)
  rw [hfree, List.getElem?_set_ne hne.symm]
  obtain rfl | hmem := hq
  · simp [hplt]
  · have hpq : p ≠ q := fun h => hpnew (h ▸ hmem)
    rw [List.getElem?_set_ne hpq, howned q hmem]

end

theorem SamePipeline.refl (s : State) : SamePipeline s s := by and_intros <;> rfl

/-- `writeBack` completes at an instruction boundary with all that the statements of the results ask for (R220, R323). -/
theorem writeBack_writesDest (hb : AtBoundary s) (hrd : rd < s.cfg.numArch) (v : Word) :
    ∃ t, writeBack rd v s = .next t ∧ WritesDest rd v s t ∧ t.dmem = s.dmem := by
  obtain ⟨p, prev, hp, hprev, -, hnext⟩ := writeBack_next_of_boundary v hb hrd
  rw [set_modify_same] at hnext
  refine ⟨_, hnext, ?_, rfl⟩
  exact ⟨readReg_newMapping_same hb hp hrd rfl rfl, fun i hi => readReg_newMapping_ne hb hp hi rfl rfl,
    zeroCond_of_newSource hb hp rfl rfl, rfl, rfl, hb.of_newMapping hp hprev rfl rfl rfl rfl rfl,
    ⟨p, prev, hp, hprev, rfl, rfl, rfl, rfl, rfl, rfl⟩, fun _ => rfl, .refl s, ⟨rfl, rfl, rfl⟩, rfl, rfl⟩

/-- A well-formed instruction that ends in `writeBack` writes its destination. -/
theorem ifWellFormed_writesDest {i : Instr} (hwf : i.wellFormed s.cfg.numArch = true) (hb : AtBoundary s)
    (hrd : rd < s.cfg.numArch) (v : Word) : ∃ t, ifWellFormed i s (writeBack rd v s) = .next t ∧ WritesDest rd v s t := by
  obtain ⟨t, ht, hw, -⟩ := writeBack_writesDest hb hrd v
  exact ⟨t, (ifWellFormed_of hwf).trans ht, hw⟩

end

/-! ### The range check of a load or a store (R77) -/

section
variable {s : State} {a : Word} (ha : s.cfg.dataMemSize ≤ a.toNat)
include ha

theorem inData_of_outOfRange : inData s a = false := decide_eq_false (Nat.not_lt.2 ha)

theorem loadFrom_of_outOfRange (rd : Nat) : loadFrom rd a s = .next (raisedAt a s) := by
  simp [loadFrom, inData_of_outOfRange ha]

theorem storeTo_of_outOfRange (v : Word) : storeTo a v s = .next (raisedAt a s) := by
  simp [storeTo, inData_of_outOfRange ha]

end

theorem storeTo_of_inData {s : State} {a : Word} (ha : a.toNat < s.cfg.dataMemSize) (v : Word) :
    storeTo a v s = .next { s with dmem := s.dmem.write a.toNat v, pc := nextSeq s.pc, committed := s.committed + 1 } := by
  have hd : inData s a = true := decide_eq_true ha
  simp [storeTo, hd, memWrite, retired]

/-! ### Agreement with the reference interpreter -/

/-- The reference state in which an instruction's semantics are performed: the pc has moved past the instruction (R220). -/
def advancedView (s : State) : RefState := { refView s with pc := nextSeq s.pc }

/-- An outcome of a meaning agrees with a state of the interpreter: it is a next state, an instruction boundary, with that view. -/
def Agrees (o : Out) (r : RefState) : Prop := ∃ t, o = .next t ∧ refView t = r ∧ AtBoundary t

theorem Agrees.ifWellFormed {i : Instr} {s : State} {k : Out} {r : RefState} (h : Agrees k r)
    (hwf : i.wellFormed s.cfg.numArch = true) : Agrees (ifWellFormed i s k) r := by rwa [ifWellFormed_of hwf]

/-- The interpreter's write is what `WritesDest` says of the view, where the memory is the same list of words. -/
theorem refView_of_writesDest {rd : Nat} {v : Word} {s t : State} (h : WritesDest rd v s t) (hdmem : t.dmem = s.dmem) :
    refView t = Ref.write rd v (advancedView s) := by
  obtain ⟨hsame, hother, hz, hpc, -, -, -, -, ⟨hcfg, -⟩, -, hhalted, herror⟩ := h
  have hregs : registers t = (registers s).set rd v := by
    refine List.ext_getElem (by simp [registers, hcfg]) fun i _ _ => ?_
    by_cases hi : i = rd
    · simp [registers, hi, hsame]
    · simp [registers, Ne.symm hi, hother i hi]
  simp [refView, Ref.write, advancedView, hregs, hz, hpc, hdmem, hhalted, herror]

/-- BNZ in the form of the other branches: the new pc where it is taken (R251). -/
theorem perform_bnz (c : Params) (own : Word) (imm : Int) (r : RefState) :
    Ref.perform c own (.bnz imm) r = if bnzTaken r.z then { r with pc := bnzTarget own (sext32 imm) } else r := by
  cases hz : r.z <;> simp [Ref.perform, bnzTaken, bnzTarget, hz]

section
variable {s : State} (hb : AtBoundary s)
include hb

/-- Both read 0 from a register that does not exist (log 21). -/
theorem reg_advancedView (i : Nat) : Ref.reg (advancedView s) i = readReg s i := by
  obtain ⟨-, -, hlen, -⟩ := hb
  by_cases hi : i < s.cfg.numArch
  · simp [Ref.reg, advancedView, refView, registers, hi]
  · have hnone : s.rrat[i]? = none := List.getElem?_eq_none (by omega)
    simp [Ref.reg, advancedView, refView, registers, hi, readReg, hnone]

theorem writeBack_agrees {rd : Nat} (hrd : rd < s.cfg.numArch) (v : Word) :
    Agrees (writeBack rd v s) (Ref.write rd v (advancedView s)) := by
  obtain ⟨t, ht, hw, hdmem⟩ := writeBack_writesDest hb hrd v
  have ⟨_, _, _, _, _, hbt, _⟩ := hw
  exact ⟨t, ht, refView_of_writesDest hw hdmem, hbt⟩

theorem loadFrom_agrees {rd : Nat} (hrd : rd < s.cfg.numArch) (a : Word) :
    Agrees (loadFrom rd a s) (Ref.load s.cfg s.pc rd a (advancedView s)) := by
  unfold Ref.load
  split
  · rename_i ha
    rw [loadFrom_of_inData ha]
    exact writeBack_agrees hb hrd _
  · rename_i ha
    exact ⟨_, loadFrom_of_outOfRange (Nat.not_lt.1 ha) rd, rfl, hb⟩

theorem storeTo_agrees (a v : Word) : Agrees (storeTo a v s) (Ref.store s.cfg s.pc a v (advancedView s)) := by
  unfold Ref.store
  split
  · rename_i ha
    exact ⟨_, storeTo_of_inData ha v, rfl, hb⟩
  · rename_i ha
    exact ⟨_, storeTo_of_outOfRange (Nat.not_lt.1 ha) v, rfl, hb⟩

/-- A taken branch overwrites the pc; training the BTB is no part of the view (R250 to R252). -/
theorem retireBranch_agrees (taken : Bool) (target : Word) :
    Agrees (retireBranch taken target s) (if taken then { advancedView s with pc := target } else advancedView s) := by
  obtain ⟨j, old, rr, n, hbtb⟩ := btbUpdate_frame s.pc taken target s
  rw [retireBranch, hbtb]
  refine ⟨_, rfl, ?_, hb⟩
  cases taken <;> rfl

/-- The meaning of every well-formed instruction agrees with the reference semantics of it. -/
theorem exec_agrees {i : Instr} (hwf : i.wellFormed s.cfg.numArch = true) : Agrees (exec i s) (Ref.exec s.cfg i (refView s)) := by
  have hrd : hasDest (drOf s.pc i).opcode = true → (drOf s.pc i).rd < s.cfg.numArch := (drOf_registers hwf).1
  have hexec : Ref.exec s.cfg i (refView s) = Ref.perform s.cfg s.pc i (advancedView s) := rfl
  rw [hexec]
  cases i with
  | add | sub | and | or | xor | mul | movc =>
    simp only [Ref.perform, reg_advancedView hb]
    exact (writeBack_agrees hb (hrd rfl) _).ifWellFormed hwf
  | load | ldr =>
    simp only [Ref.perform, reg_advancedView hb]
    exact (loadFrom_agrees hb (hrd rfl) _).ifWellFormed hwf
  | store | str =>
    simp only [Ref.perform, reg_advancedView hb]
    exact (storeTo_agrees hb _ _).ifWellFormed hwf
  | bz => exact (retireBranch_agrees hb _ _).ifWellFormed hwf
  | bnz =>
    rw [perform_bnz]
    exact (retireBranch_agrees hb _ _).ifWellFormed hwf
  | jump =>
    rw [Ref.perform, reg_advancedView hb]
    exact (retireBranch_agrees hb _ _).ifWellFormed hwf
  | halt => exact ⟨_, rfl, rfl, hb⟩

end

end Sys2Proof.Machine

section
open Sys2Proof Sys2Proof.Machine

/-- Settles O10: each of the six ends in `writeBack` of its result, which at a boundary has a register to take. -/
theorem aluResults : Obligations.AluResults := by
  intro s rd rs1 rs2 hb hrd hrs1 hrs2
  have hwf : (regOk s.cfg.numArch rd && regOk s.cfg.numArch rs1 && regOk s.cfg.numArch rs2) = true := by
    simp [regOk, hrd, hrs1, hrs2]
  exact ⟨ifWellFormed_writesDest (i := .add ..) hwf hb hrd _, ifWellFormed_writesDest (i := .sub ..) hwf hb hrd _,
    ifWellFormed_writesDest (i := .and ..) hwf hb hrd _, ifWellFormed_writesDest (i := .or ..) hwf hb hrd _,
    ifWellFormed_writesDest (i := .xor ..) hwf hb hrd _, ifWellFormed_writesDest (i := .mul ..) hwf hb hrd _⟩

/-- Settles O11: MOVC ends in `writeBack` of the extended immediate. -/
theorem movcResult : Obligations.MovcResult := by
  intro s rd imm hb hrd hlo hhi
  have hwf : (Instr.movc rd imm).wellFormed s.cfg.numArch = true := by simp [Instr.wellFormed, regOk, immOk, hrd, hlo, hhi]
  exact ifWellFormed_writesDest hwf hb hrd _

/-- Settles O19, shared operation by shared operation of the meanings. -/
theorem execMatchesReference : Obligations.ExecMatchesReference := fun _ _ hb hwf => exec_agrees hb hwf

/-- Settles O14: the range check comes before every other effect. -/
theorem outOfRangeRaisesError : Obligations.OutOfRangeRaisesError := by
  intro s rd rs1 rs2 rs3 imm hrd hrs1 hrs2 hrs3 hlo hhi
  refine ⟨fun ha => ?load, fun ha => ?ldr, fun ha => ?store, fun ha => ?str⟩
  case load | ldr =>
    exact (ifWellFormed_of (by simp [Instr.wellFormed, regOk, immOk, *])).trans (loadFrom_of_outOfRange ha rd)
  case store | str =>
    exact (ifWellFormed_of (by simp [Instr.wellFormed, regOk, immOk, *])).trans (storeTo_of_outOfRange ha _)

/-- Settles O16: HALT is well-formed and only retires. -/
theorem haltResult : Obligations.HaltResult := fun s => ifWellFormed_of (i := .halt) (s := s) rfl

end


/-! ## Branches

SUPPORT. The branch target buffer (R255 to R257), and what the meanings of the branches leave alone (R250 to R252). -/

namespace Sys2Proof.Machine

/-! ### The branch target buffer -/

theorem mem_btbTags {a : Word} {l : List (Option BtbEntry)} : a ∈ btbTags l ↔ ∃ e, some e ∈ l ∧ e.tag = a := by
  simp [btbTags]

/-- A buffer in which no tag occurs twice has at most one entry with a tag (R39). -/
theorem btbEntry_unique {l : List (Option BtbEntry)} (h : (btbTags l).Nodup) {e e' : BtbEntry} (he : some e ∈ l)
    (he' : some e' ∈ l) (htag : e.tag = e'.tag) : e = e' :=
  List.inj_on_of_nodup_map h (List.mem_filterMap.2 ⟨_, he, rfl⟩) (List.mem_filterMap.2 ⟨_, he', rfl⟩) htag

/-- Where an entry has the tag, one with the tag is found (R255). -/
theorem exists_btbFind {a : Word} {l : List (Option BtbEntry)} (h : a ∈ btbTags l) :
    ∃ k e, btbFind a 0 l = some (k, e) ∧ l[k]? = some (some e) ∧ e.tag = a := by
  cases hf : btbFind a 0 l with
  | none => exact absurd h (btbFind_eq_none hf)
  | some x =>
    obtain ⟨-, hget, htag⟩ := btbFind_eq_some hf
    exact ⟨x.1, x.2, rfl, hget, htag⟩

/-- Without an entry that has the tag, none is found (R255). -/
theorem btbFind_of_not_mem {a : Word} {l : List (Option BtbEntry)} (h : a ∉ btbTags l) : btbFind a 0 l = none := by
  cases hf : btbFind a 0 l with
  | none => rfl
  | some x =>
    obtain ⟨-, hget, htag⟩ := btbFind_eq_some hf
    exact absurd (mem_btbTags.2 ⟨x.2, List.mem_of_getElem? hget, htag⟩) h

theorem btbLookup_of_mem {s : State} {e : BtbEntry} (h : (btbTags s.btb).Nodup) (he : some e ∈ s.btb) :
    btbLookup s e.tag = (true, e.taken, e.target) := by
  obtain ⟨k, e', hf, hget, htag⟩ := exists_btbFind (mem_btbTags.2 ⟨e, he, rfl⟩)
  obtain rfl := btbEntry_unique h (List.mem_of_getElem? hget) he htag
  simp [btbLookup, hf]

theorem btbLookup_of_not_mem {s : State} {a : Word} (h : a ∉ btbTags s.btb) : btbLookup s a = (false, false, 0) := by
  simp [btbLookup, btbFind_of_not_mem h]

/-- The slot that is found is the first with the tag: an entry put there is found in its place, and one put where none was
found is found (R256). -/
theorem btbFind_set {a : Word} {l : List (Option BtbEntry)} {j n : Nat} {e : BtbEntry} (htag : e.tag = a) (hj : j < l.length)
    (h : (∃ e', btbFind a n l = some (n + j, e')) ∨ btbFind a n l = none) :
    btbFind a n (l.set j (some e)) = some (n + j, e) := by
  induction l generalizing j n with
  | nil => cases hj
  | cons x l ih =>
    cases j with
    | zero => simp [btbFind, htag]
    | succ j =>
      have hlt : j < l.length := Nat.lt_of_succ_lt_succ hj
      rw [show n + (j + 1) = n + 1 + j by omega] at h ⊢
      cases x with
      | none => exact ih hlt h
      | some y =>
        by_cases hy : y.tag = a
        · obtain ⟨e', h⟩ | h := h
          · simp [btbFind, hy] at h
            omega
          · simp [btbFind, hy] at h
        · simp only [btbFind, hy, if_false, List.set_cons_succ] at h ⊢
          exact ih hlt h

theorem firstNone_eq_some {α : Type} {n k : Nat} {l : List (Option α)} (h : firstNone n l = some k) :
    ∃ j, k = n + j ∧ l[j]? = some none ∧ ∀ i < j, l[i]? ≠ some none := by
  induction l generalizing n with
  | nil => cases h
  | cons x l ih =>
    cases x with
    | none =>
      obtain rfl := Option.some.inj h
      exact ⟨0, rfl, rfl, fun i hi => absurd hi (Nat.not_lt_zero i)⟩
    | some y =>
      obtain ⟨j, rfl, hj, hlow⟩ := ih h
      refine ⟨j + 1, by omega, hj, fun i hi => ?_⟩
      cases i with
      | zero => exact nofun
      | succ i => exact hlow i (Nat.lt_of_succ_lt_succ hi)

theorem firstNone_eq_none {α : Type} {n : Nat} {l : List (Option α)} (h : firstNone n l = none) : ∀ x ∈ l, x ≠ none := by
  induction l generalizing n with
  | nil => simp
  | cons x l ih =>
    cases x with
    | none => cases h
    | some y => exact List.forall_mem_cons.2 ⟨nofun, ih h⟩

/-- A trained entry in the slot that had the tag, or in any slot of a buffer without the tag, is found (R255, R256). -/
theorem btbLookup_trained {s t : State} {a target old : Word} {taken : Bool} {j : Nat} (hj : j < s.btb.length)
    (ht : t.btb = s.btb.set j (some (trainedEntry a taken target old)))
    (h : (∃ e, btbFind a 0 s.btb = some (j, e)) ∨ btbFind a 0 s.btb = none) :
    btbLookup t a = (true, taken, if taken then target else old) := by
  have hf := btbFind_set (a := a) (n := 0) (e := trainedEntry a taken target old) rfl hj (by simpa using h)
  rw [btbLookup, ht, hf]
  rfl

/-! Where the training writes (R256). -/

section
variable {s : State} {a : Word} (taken : Bool) (target : Word)

theorem btbUpdate_of_hit {k : Nat} {e : BtbEntry} (h : btbFind a 0 s.btb = some (k, e)) :
    btbUpdate a taken target s = { s with btb := s.btb.set k (some (trainedEntry a taken target e.target)) } := by
  simp [btbUpdate, h]

theorem btbUpdate_of_empty {k : Nat} (h : btbFind a 0 s.btb = none) (hk : firstNone 0 s.btb = some k) :
    btbUpdate a taken target s = { s with btb := s.btb.set k (some (trainedEntry a taken target 0)) } := by
  simp [btbUpdate, h, hk]

/-- The victim is a slot of the buffer, and only its policy's own state moves (R257). -/
theorem btbUpdate_of_full (h : btbFind a 0 s.btb = none) (hn : firstNone 0 s.btb = none) (hrr : s.btbRr < s.cfg.btbSize) :
    ∃ j rr n, btbUpdate a taken target s =
        { s with btb := s.btb.set j (some (trainedEntry a taken target 0)), btbRr := rr, victimDraws := n } ∧
      j < s.cfg.btbSize ∧
      (s.cfg.btbVictim = .roundRobin → j = s.btbRr ∧ rr = (s.btbRr + 1) % s.cfg.btbSize ∧ n = s.victimDraws) ∧
      (s.cfg.btbVictim = .free → rr = s.btbRr ∧ n = s.victimDraws + 1) := by
  cases hv : s.cfg.btbVictim with
  | roundRobin =>
    exact ⟨s.btbRr, _, s.victimDraws, by simp only [btbUpdate, h, hn, btbVictim, hv], hrr, fun _ => ⟨rfl, rfl, rfl⟩, nofun⟩
  | free =>
    exact ⟨Config.freeVictim s.victimDraws % s.cfg.btbSize, s.btbRr, _, by simp only [btbUpdate, h, hn, btbVictim, hv],
      Nat.mod_lt _ (Nat.zero_lt_of_lt hrr), nofun, fun _ => ⟨rfl, rfl⟩⟩

end

/-! ### The meanings of the branches -/

/-- A branch goes on where it leads and changes only the prediction state, by its training (R250 to R252, R325). -/
theorem retireBranch_branchesTo (taken : Bool) (target : Word) (s : State) :
    ∃ t, retireBranch taken target s = .next t ∧ BranchesTo (branchNext s.pc taken target) s t ∧
      SamePrediction (btbUpdate s.pc taken target s) t := by
  obtain ⟨j, old, rr, n, hb⟩ := btbUpdate_frame s.pc taken target s
  rw [retireBranch, hb]
  refine ⟨_, rfl, ⟨rfl, rfl, ?_, fun _ => rfl, ?_, rfl, rfl⟩, rfl, rfl, rfl⟩ <;> and_intros <;> rfl

/-- A well-formed branch instruction runs its `retireBranch`. -/
theorem ifWellFormed_branchesTo {i : Instr} {s : State} (hwf : i.wellFormed s.cfg.numArch = true) (taken : Bool) (target : Word) :
    ∃ t, ifWellFormed i s (retireBranch taken target s) = .next t ∧ BranchesTo (branchNext s.pc taken target) s t ∧
      SamePrediction (btbUpdate s.pc taken target s) t := by
  rw [ifWellFormed_of hwf]
  exact retireBranch_branchesTo taken target s

/-! ### The branch unit -/

/-- The branch unit writes the outcome into the entry of its operation and changes nothing else (R253). -/
theorem branchLast_of_outcome {op : UnitLatch} {s : State} {e : RobEntry} {taken : Bool} {target : Word}
    (he : robAt s op.rob = some e) (ho : branchOutcome op e.pc = some (taken, target)) :
    branchLast op s = .next { s with rob := s.rob.set op.rob (some (e.resolved taken target)) } := by
  simp [branchLast, robUpdate, he, ho]

end Sys2Proof.Machine

section
open Sys2Proof Sys2Proof.Machine

/-- Settles O37: the predicate is written as the spec states it. -/
theorem mispredictIff : Obligations.MispredictIff := by
  intro e
  simp [mispredict, and_assoc]

/-- Settles O36, opcode by opcode; the zero condition without an operand is false. -/
theorem branchUnitResolves : Obligations.BranchUnitResolves := by
  intro s op e he resolve
  have resolves : ∀ taken target, branchOutcome op e.pc = some (taken, target) → branchLast op s = resolve taken target :=
    fun _ _ ho => branchLast_of_outcome he ho
  refine ⟨fun ho hv => ?bzNone, fun ho hv => ?bnzNone, fun v ho hv => ?bz, fun v ho hv => ?bnz, fun v ho hv => ?jump⟩
  case bzNone => exact resolves _ _ (by rw [branchOutcome, ho, hv]; rfl)
  case bnzNone => exact resolves _ _ (by rw [branchOutcome, ho, hv]; rfl)
  case bz => exact resolves _ _ (by rw [branchOutcome, ho, hv]; rfl)
  case bnz => exact resolves _ _ (by simp [branchOutcome, ho, hv, bnzTaken, zeroOf, isZero, bnzTarget])
  case jump => exact resolves _ _ (by rw [branchOutcome, ho, UnitLatch.val, hv]; rfl)

/-- Settles O40: the first entry with the tag is the only one. -/
theorem btbLookupIff : Obligations.BtbLookupIff := by
  intro s a hnodup
  refine ⟨fun k e hk htag => htag ▸ btbLookup_of_mem hnodup (List.mem_of_getElem? hk), fun hno => btbLookup_of_not_mem fun hmem => ?_⟩
  obtain ⟨e, he, htag⟩ := mem_btbTags.1 hmem
  obtain ⟨k, hk⟩ := List.mem_iff_getElem?.1 he
  exact hno k e hk htag

/-- Settles O41, by where the slot comes from: the entry with the tag, the lowest empty slot, or the victim. -/
theorem btbUpdateTrains : Obligations.BtbUpdateTrains := by
  intro s a taken target hlen hrr
  cases hf : btbFind a 0 s.btb with
  | some x =>
    obtain ⟨k, e⟩ := x
    obtain ⟨-, hget, htag⟩ := btbFind_eq_some hf
    have hk : k < s.btb.length := (List.getElem?_eq_some_iff.1 hget).1
    exact ⟨k, e.target, _, btbUpdate_of_hit taken target hf, hlen ▸ hk, rfl, rfl, btbLookup_trained hk rfl (.inl ⟨e, hf⟩),
      .inl ⟨e, hget, htag, rfl, rfl, rfl⟩⟩
  | none =>
    have hmiss : ∀ e, some e ∈ s.btb → e.tag ≠ a := fun e he htag => btbFind_eq_none hf (mem_btbTags.2 ⟨e, he, htag⟩)
    cases hn : firstNone 0 s.btb with
    | some k =>
      obtain ⟨j, hkj, hj, hlow⟩ := firstNone_eq_some hn
      obtain rfl : k = j := hkj.trans (Nat.zero_add j)
      have hk : k < s.btb.length := (List.getElem?_eq_some_iff.1 hj).1
      exact ⟨k, 0, _, btbUpdate_of_empty taken target hf hn, hlen ▸ hk, rfl, rfl, btbLookup_trained hk rfl (.inr hf),
        .inr (.inl ⟨hmiss, rfl, hj, hlow, rfl, rfl⟩)⟩
    | none =>
      obtain ⟨j, rr, n, hupdate, hj, hround, hfree⟩ := btbUpdate_of_full taken target hf hn hrr
      exact ⟨j, 0, _, hupdate, hj, rfl, rfl, btbLookup_trained (hlen ▸ hj) rfl (.inr hf),
        .inr (.inr ⟨hmiss, rfl, firstNone_eq_none hn, hround, hfree⟩)⟩

/-- Settles O15: each branch is well-formed and runs its `retireBranch`. -/
theorem branchResults : Obligations.BranchResults := by
  intro s rs1 imm hrs1 hlo hhi
  have himm : immOk imm = true := by simp [immOk, hlo, hhi]
  refine ⟨?bz, ?bnz, ?jump⟩
  case bz => exact ifWellFormed_branchesTo (i := .bz imm) himm _ _
  case bnz =>
    have hnext := ifWellFormed_branchesTo (i := .bnz imm) (s := s) himm (bnzTaken (zeroCond s)) (bnzTarget s.pc (sext32 imm))
    have hpc : branchNext s.pc (bnzTaken (zeroCond s)) (bnzTarget s.pc (sext32 imm)) =
        if zeroCond s then s.pc + 4 else s.pc + BitVec.ofInt 32 imm := by cases zeroCond s <;> rfl
    rwa [hpc] at hnext
  case jump => exact ifWellFormed_branchesTo (i := .jump rs1 imm) (by simp [Instr.wellFormed, regOk, hrs1, himm]) _ _

end

/-! ## What an instruction computes from its operands

SUPPORT. An instruction of the program as an operation in a unit, and the reference interpreter in terms of that operation's result,
address or outcome (R199, R220, R253, R284). -/

namespace Sys2Proof.Machine

/-- The operation of instruction `i` on the operands `vs` (R183), with nothing said of the queues' slots it belongs to. -/
def operationOf (i : Instr) (vs : List Word) : UnitLatch :=
  issueLatch { opcode := i.opcode, src := [], pd := none, imm := sext32 i.toRecord.imm, rob := 0, lsq := none } vs

/-- The operation `op` in a unit is one of instruction `i`. -/
structure UnitLatch.Runs (op : UnitLatch) (i : Instr) : Prop where
  opcode : op.opcode = i.opcode
  imm : op.imm = sext32 i.toRecord.imm

section
variable {op : UnitLatch} {i : Instr} (h : op.Runs i)
include h

theorem UnitLatch.Runs.aluResult_eq : aluResult (operationOf i op.vals) = aluResult op := by
  rw [aluResult, aluResult, h.opcode, h.imm]
  rfl

theorem UnitLatch.Runs.memAddress_eq : memAddress (operationOf i op.vals) = memAddress op := by
  rw [memAddress, memAddress, h.opcode, h.imm]
  rfl

theorem UnitLatch.Runs.branchOutcome_eq (pc : Word) : branchOutcome (operationOf i op.vals) pc = branchOutcome op pc := by
  rw [branchOutcome, branchOutcome, h.opcode, h.imm]
  rfl

end

/-- The engine and the reference interpreter find the same instruction at a pc (R71, R151, R220). -/
theorem instrAt_eq_fetchAt (s : State) (a : Word) : instrAt s a = Ref.fetchAt s.cfg s.prog a := by
  change (if (decide (codeOffset s a % Config.instrWidth = 0) && decide (codeIndex s a < s.prog.length)) = true then
    s.prog[codeIndex s a]? else none) = if codeOffset s a % Config.instrWidth = 0 then s.prog[codeIndex s a]? else none
  by_cases hlt : codeIndex s a < s.prog.length
  · simp [hlt]
  · simp [hlt]

theorem instrAt_congr {s t : State} (hcfg : t.cfg = s.cfg) (hprog : t.prog = s.prog) (a : Word) : instrAt t a = instrAt s a := by
  rw [instrAt_eq_fetchAt, instrAt_eq_fetchAt, hcfg, hprog]

/-! ### The reference interpreter by what the operation computes -/

/-- The operands of instruction `i` are what the reference interpreter reads: its registers, or for BZ and BNZ the zero condition. -/
structure RefOperands (r : RefState) (i : Instr) (vs : List Word) : Prop where
  registers : readsZero i.opcode = false → vs = (srcRegs (drOf 0 i)).map (Ref.reg r)
  zero : readsZero i.opcode = true → zeroOf vs = r.z

section
variable {c : Params} {r : RefState} {i : Instr} {vs : List Word} (h : RefOperands r i vs)
include h

/-- An instruction with a result writes it to its destination. -/
theorem exec_of_aluResult {v : Word} (hv : aluResult (operationOf i vs) = some v) :
    Ref.exec c i r = Ref.write i.toRecord.rd v { r with pc := nextSeq r.pc } := by
  cases i with
  | add | sub | and | or | xor | mul | movc =>
    obtain rfl := h.registers rfl
    obtain rfl := Option.some.inj hv
    rfl
  | load | ldr | store | str | bz | bnz | jump | halt => cases hv

/-- A memory instruction accesses its address: a store with its first operand, a load into its destination. -/
theorem exec_of_memAddress {a : Word} (ha : memAddress (operationOf i vs) = some a) :
    Ref.exec c i r = if isStoreOp i.opcode then Ref.store c r.pc a ((operationOf i vs).val 1) { r with pc := nextSeq r.pc }
      else Ref.load c r.pc i.toRecord.rd a { r with pc := nextSeq r.pc } := by
  cases i with
  | load | ldr | store | str =>
    obtain rfl := h.registers rfl
    obtain rfl := Option.some.inj ha
    rfl
  | add | sub | and | or | xor | mul | movc | bz | bnz | jump | halt => cases ha

/-- A branch goes to its target if it is taken and on in sequence otherwise. -/
theorem exec_of_branchOutcome {taken : Bool} {target : Word} (ho : branchOutcome (operationOf i vs) r.pc = some (taken, target)) :
    Ref.exec c i r = { r with pc := branchNext r.pc taken target } := by
  cases i with
  | jump =>
    obtain rfl := h.registers rfl
    cases ho
    rfl
  | bz imm =>
    cases ho
    have hz : zeroOf (operationOf (.bz imm) vs).vals = r.z := h.zero rfl
    rw [hz]
    cases hr : r.z <;> simp [Ref.exec, Ref.perform, hr, bzTaken, bzTarget, branchNext, operationOf, issueLatch, Instr.toRecord]
  | bnz imm =>
    cases ho
    have hz : zeroOf (operationOf (.bnz imm) vs).vals = r.z := h.zero rfl
    rw [hz]
    cases hr : r.z <;> simp [Ref.exec, Ref.perform, hr, bnzTaken, bnzTarget, branchNext, operationOf, issueLatch, Instr.toRecord]
  | add | sub | and | or | xor | mul | movc | load | ldr | store | str | halt => cases ho

end

end Sys2Proof.Machine

/-! ## What the engine in flight holds of the program

SUPPORT. The engine's queues and units hold the program's instructions along the predicted path, each with the operands that program
order gives it, and every value, address and outcome in flight is the one computed from those operands (R141, R157, R183, R253,
R284 to R287). This is what makes commit follow the reference interpreter (R340). -/

namespace Sys2Proof.Machine

/-! ### The entries before an instruction -/

/-- The ROB entries older than slot `r`, oldest first (R36). -/
def entriesBefore (s : State) (r : Nat) : List RobEntry := ((robInOrder s).take (robAge s r)).map Prod.snd

/-- The zero-condition source that the instruction in ROB slot `r` was dispatched under, counted from the committed one `z`. -/
def zsrcBefore (z : Option Nat) (s : State) (r : Nat) : Option Nat := replayZsrc z (entriesBefore s r)

theorem mapBefore_eq (s : State) (r : Nat) : mapBefore s r = replayMap s.rrat (entriesBefore s r) := rfl

theorem entriesBefore_of_append {s : State} (h : QueuesOk s) {xs ys : List (Nat × RobEntry)} {x : Nat × RobEntry}
    (hx : robInOrder s = xs ++ x :: ys) : entriesBefore s x.1 = xs.map Prod.snd := by
  obtain ⟨hlen, hslot⟩ := ringEntries_position h.rob hx
  have hage : robAge s x.1 = xs.length := by
    rw [hslot]
    exact age_of_slot (hlen.trans_le h.rob.count) h.rob.head
  rw [entriesBefore, hage, hx, List.take_left]

/-- Nothing is older than the head. -/
theorem entriesBefore_head (s : State) : entriesBefore s s.robHead = [] := by
  have hage : robAge s s.robHead = 0 := by rw [robAge, Nat.add_sub_cancel_left, Nat.mod_self]
  rw [entriesBefore, hage, List.take_zero, List.map_nil]

theorem zsrcBefore_of_sameOrder {s t : State} (ho : SameOrder (robInOrder s) (robInOrder t)) (hcfg : t.cfg = s.cfg)
    (hhead : t.robHead = s.robHead) (z : Option Nat) (r : Nat) : zsrcBefore z t r = zsrcBefore z s r := by
  have htake : SameOrder ((robInOrder s).take (robAge s r)) ((robInOrder t).take (robAge s r)) := List.forall₂_take _ ho
  have hage : robAge t r = robAge s r := by rw [robAge, robAge, hcfg, hhead]
  rw [zsrcBefore, zsrcBefore, entriesBefore, entriesBefore, hage, htake.replayZsrc_eq]

/-! ### The path -/

/-- Where the front end goes on after a dispatched instruction, by its prediction (R22, R162). -/
def predNext (e : RobEntry) : Word := if isBranch e.opcode && e.predTaken then e.predTarget else nextSeq e.pc

/-- The instructions of a list follow each other along their predictions, from the pc `a` on, and lead to `b`. -/
def Path : Word → List RobEntry → Word → Prop
  | a, [], b => a = b
  | a, e :: es, b => e.pc = a ∧ Path (predNext e) es b

theorem path_append {a b : Word} {es fs : List RobEntry} : Path a (es ++ fs) b ↔ ∃ c, Path a es c ∧ Path c fs b := by
  induction es generalizing a with
  | nil => simp [Path]
  | cons e es ih => simp [Path, ih, and_assoc]

/-- The pc of the oldest instruction that is not dispatched yet: that of the latch, or the next one to fetch. -/
def frontPc (s : State) : Word := s.dr.elim s.pc DrLatch.pc

/-- The latch of instruction `i` at `pc`, stalled or not (R150, R156). -/
def latchOf (pc : Word) (i : Instr) (stalled : Bool) : DrLatch := { drOf pc i with stalled := stalled }

/-- The latch holds the instruction of the program at its pc, and the pc is past it (R150). -/
def LatchOk (s : State) (d : DrLatch) : Prop :=
  s.pc = nextSeq d.pc ∧ ∃ i b, instrAt s d.pc = some i ∧ d = latchOf d.pc i b

/-! ### Operands -/

/-- The physical registers that instruction `i` reads under the map `m` and the zero-condition source `z` (R131, R132, R157). -/
def sourceRegs (i : Instr) (m : List Nat) (z : Option Nat) : List Nat :=
  if readsZero i.opcode then z.toList else (srcRegs (drOf 0 i)).map fun r => m.getD r 0

/-- The instruction of the program whose ROB entry is in slot `r`. -/
def instrIn (s : State) (r : Nat) : Option Instr := (robAt s r).bind fun e => instrAt s e.pc

/-- The physical registers that program order gives to instruction `i` in ROB slot `r` as its sources. -/
def sourcesOf (z : Option Nat) (s : State) (r : Nat) (i : Instr) : List Nat := sourceRegs i (mapBefore s r) (zsrcBefore z s r)

/-- The register holds a produced value (R24). -/
def Holds (s : State) (p : Nat) (v : Word) : Prop := s.prf[p]? = some ⟨v, true⟩

/-- The instruction in ROB slot `r` is `i`, its sources are valid, and `vs` are their values. -/
structure Operands (z : Option Nat) (s : State) (r : Nat) (i : Instr) (vs : List Word) : Prop where
  instr : instrIn s r = some i
  mapped : ∀ p ∈ sourcesOf z s r i, p ∈ mapBefore s r
  values : List.Forall₂ (Holds s) (sourcesOf z s r i) vs

/-! ### What each part holds -/

/-- An issue-queue entry waits for the sources that program order gives its instruction (R157, R161). -/
def IqData (z : Option Nat) (s : State) (x : IqEntry) : Prop :=
  ∃ i, instrIn s x.rob = some i ∧ x.opcode = i.opcode ∧ x.imm = sext32 i.toRecord.imm ∧ x.src.map SrcTag.p = sourcesOf z s x.rob i

/-- An operation in a unit carries the operands of its instruction (R183). -/
def UnitData (z : Option Nat) (s : State) (op : UnitLatch) : Prop := ∃ i, Operands z s op.rob i op.vals ∧ op.Runs i

/-- A known address, and the value of a store, are computed from the operands (R284). -/
def LsqData (z : Option Nat) (s : State) (q : LsqEntry) : Prop :=
  q.addrValid = true → ∃ i vs, Operands z s q.rob i vs ∧ memAddress (operationOf i vs) = some q.addr ∧
    (q.isStore = true → q.value = (operationOf i vs).val 1)

/-- The result of a complete instruction that is no memory operation is computed from its operands (R199, R253). -/
def ResultData (z : Option Nat) (s : State) (r : Nat) (e : RobEntry) : Prop :=
  ∃ i vs, Operands z s r i vs ∧ (∀ v p, aluResult (operationOf i vs) = some v → e.pd = some p → Holds s p v) ∧
    ∀ o, branchOutcome (operationOf i vs) e.pc = some o → o = (e.actTaken, e.actTarget)

/-- A ROB entry is of the program's instruction at its pc, and its result is that of the operands (R159, R199, R253). -/
structure EntryData (z : Option Nat) (s : State) (r : Nat) (e : RobEntry) : Prop where
  fetched : ∃ i, instrAt s e.pc = some i ∧ e.opcode = i.opcode ∧ e.rd = i.toRecord.rd
  result : e.complete = true → usesLsq e.opcode = false → ResultData z s r e

/-- A load that has been performed, in range (R287). -/
def Performed (s : State) (q : LsqEntry) : Prop := q.isStore = false ∧ q.done = true ∧ inData s q.addr = true

/-- A performed load has delivered the word that memory holds at its address (R287). -/
def LoadData (s : State) (q : LsqEntry) : Prop := Performed s q → ∀ p, q.pd = some p → Holds s p (memRead s q.addr)

/-- No older store blocks a performed load, so none will write to its address (R286). -/
def LoadOrder (s : State) : Prop := (lsqInOrder s).Pairwise fun y x => Performed s x.2 → passes x.2.addr y.2 = true

/-- The engine in flight holds the program's instructions from the pc `pc` on, and all their data so far; `z` is the register of the
committed zero condition. -/
structure Tracked (pc : Word) (z : Option Nat) (s : State) : Prop where
  queues : QueuesOk s
  committed : ∀ p, z = some p → p ∈ s.rrat
  zsrc : s.zsrc = replayZsrc z ((robInOrder s).map Prod.snd)
  bis : ∀ ck ∈ s.bis, ck.zsrc = zsrcBefore z s ck.rob
  path : Path pc ((robInOrder s).map Prod.snd) (frontPc s)
  latch : ∀ d, s.dr = some d → LatchOk s d
  rob : ∀ r e, robAt s r = some e → EntryData z s r e
  iq : ∀ x ∈ iqEntries s, IqData z s x
  unit : ∀ c op, some op ∈ unitStages c s → UnitData z s op
  lsq : ∀ l q, lsqAt s l = some q → LsqData z s q
  loads : ∀ l q, lsqAt s l = some q → LoadData s q
  order : LoadOrder s

/-! ### Data kept -/

/-- Registers in use that hold a value keep it. -/
def KeepsValues (s t : State) : Prop := ∀ p ∈ owned s, ∀ v, Holds s p v → Holds t p v

/-- The instruction in ROB slot `r` is the same in `t`, with the same sources. -/
structure KeepsSlot (z z' : Option Nat) (s t : State) (r : Nat) : Prop where
  instr : ∀ i, instrIn s r = some i → instrIn t r = some i
  map : mapBefore t r = mapBefore s r
  zsrc : zsrcBefore z' t r = zsrcBefore z s r

section
variable {z z' : Option Nat} {s t : State} {r : Nat}

theorem KeepsSlot.sourcesOf_eq (h : KeepsSlot z z' s t r) (i : Instr) : sourcesOf z' t r i = sourcesOf z s r i := by
  rw [sourcesOf, sourcesOf, h.map, h.zsrc]

theorem Operands.of_keeps {i : Instr} {vs : List Word} (h : Operands z s r i vs) (hk : KeepsSlot z z' s t r)
    (hv : KeepsValues s t) : Operands z' t r i vs where
  instr := hk.instr i h.instr
  mapped := by
    rw [hk.sourcesOf_eq, hk.map]
    exact h.mapped
  values := by
    rw [hk.sourcesOf_eq]
    have := h.values
    rw [List.forall₂_iff_get] at this ⊢
    obtain ⟨hlen, hall⟩ := this
    exact ⟨hlen, fun j hj hj' => hv _ (mem_owned_of_mem_mapBefore (h.mapped _ (List.get_mem _ _))) _ (hall j hj hj')⟩

theorem IqData.of_keeps {x : IqEntry} (h : IqData z s x) (hk : KeepsSlot z z' s t x.rob) : IqData z' t x := by
  obtain ⟨i, hi, ho, himm, hsrc⟩ := h
  exact ⟨i, hk.instr i hi, ho, himm, (hk.sourcesOf_eq i).symm ▸ hsrc⟩

theorem UnitData.of_keeps {op : UnitLatch} (h : UnitData z s op) (hk : KeepsSlot z z' s t op.rob) (hv : KeepsValues s t) :
    UnitData z' t op := by
  obtain ⟨i, hops, hruns⟩ := h
  exact ⟨i, hops.of_keeps hk hv, hruns⟩

theorem LsqData.of_keeps {q : LsqEntry} (h : LsqData z s q) (hk : KeepsSlot z z' s t q.rob) (hv : KeepsValues s t) :
    LsqData z' t q := fun ha => by
  obtain ⟨i, vs, hops, hrest⟩ := h ha
  exact ⟨i, vs, hops.of_keeps hk hv, hrest⟩

theorem ResultData.of_keeps {e : RobEntry} (h : ResultData z s r e) (hk : KeepsSlot z z' s t r) (hv : KeepsValues s t)
    (hpd : ∀ p, e.pd = some p → p ∈ owned s) : ResultData z' t r e := by
  obtain ⟨i, vs, hops, hres, hout⟩ := h
  exact ⟨i, vs, hops.of_keeps hk hv, fun v p hr hp => hv p (hpd p hp) v (hres v p hr hp), hout⟩

theorem EntryData.of_keeps {e : RobEntry} (h : EntryData z s r e) (hk : KeepsSlot z z' s t r) (hv : KeepsValues s t)
    (hinstr : ∀ a, instrAt t a = instrAt s a) (hpd : ∀ p, e.pd = some p → p ∈ owned s) : EntryData z' t r e where
  fetched := by
    simp only [hinstr]
    exact h.fetched
  result hc hu := (h.result hc hu).of_keeps hk hv hpd

theorem LoadData.of_keeps {q : LsqEntry} (h : LoadData s q) (hcfg : t.cfg = s.cfg) (hmem : t.dmem = s.dmem) (hv : KeepsValues s t)
    (hpd : ∀ p, q.pd = some p → p ∈ owned s) : LoadData t q := fun hperf p hp => by
  rw [Performed, inData, hcfg] at hperf
  rw [memRead, hmem]
  exact hv p (hpd p hp) _ (h hperf p hp)

end

/-! ### Single updates in flight -/

theorem mem_owned_of_dest {s : State} (hq : QueuesOk s) {r p : Nat} {e : RobEntry} (he : robAt s r = some e) (hp : e.pd = some p) :
    p ∈ owned s := by
  rw [owned_eq]
  exact List.mem_append_right _ (List.mem_filterMap.2 ⟨(r, e), (mem_robInOrder hq).2 he, hp⟩)

theorem holds_delivered {s : State} {p : Nat} {b : Bool} (hp : prfReady s p = some b) (v : Word) : Holds (delivered p v s) p v := by
  obtain ⟨x, hx, -⟩ := Option.map_eq_some_iff.1 hp
  exact List.getElem?_set_self (List.getElem?_eq_some_iff.1 hx).1

section
variable {pc : Word} {z : Option Nat} {s t : State} (h : Tracked pc z s)
include h

/-- An update of registers, issue queue, LSQ or units keeps the rest; what these hold afterwards is to be shown. -/
theorem Tracked.of_sameRob (ht : t = { s with
      prf := t.prf, iq := t.iq, lsq := t.lsq, intU := t.intU, mulU := t.mulU, brU := t.brU, memU := t.memU })
    (hring : RingOk t.lsq s.cfg.lsqSize s.lsqHead s.lsqCount) (hv : KeepsValues s t) (hiq : ∀ x ∈ iqEntries t, IqData z s x)
    (hunit : ∀ c op, some op ∈ unitStages c t → UnitData z s op) (hlsq : ∀ l q, lsqAt t l = some q → LsqData z s q)
    (hloads : ∀ l q, lsqAt t l = some q → LoadData t q) (horder : LoadOrder t) : Tracked pc z t := by
  have hk : ∀ r, KeepsSlot z z s t r := fun r => by
    rw [ht]
    exact ⟨fun _ hi => hi, rfl, rfl⟩
  generalize t.prf = prf, t.iq = iq, t.lsq = lsq, t.intU = a, t.mulU = m, t.brU = b, t.memU = c at ht hring
  subst ht
  exact {
    queues := ⟨h.queues.rob, h.queues.robTail, hring, h.queues.lsqTail⟩
    committed := h.committed
    zsrc := h.zsrc
    bis := h.bis
    path := h.path
    latch := h.latch
    rob := fun r e he => (h.rob r e he).of_keeps (hk r) hv (fun _ => rfl) fun p hp => mem_owned_of_dest h.queues he hp
    iq := fun x hx => (hiq x hx).of_keeps (hk _)
    unit := fun c op hop => (hunit c op hop).of_keeps (hk _) hv
    lsq := fun l q hl => (hlsq l q hl).of_keeps (hk _) hv
    loads := hloads
    order := horder }

/-- A result goes to a register that holds none yet, so no value is lost, and a wake-up renames no source (R142, R180). -/
theorem Tracked.delivered {p : Nat} (v : Word) (hp : prfReady s p = some false) : Tracked pc z (delivered p v s) := by
  have hv : ∀ p' w, Holds s p' w → Holds (Machine.delivered p v s) p' w := fun p' w hw => by
    have hne : p ≠ p' := by
      rintro rfl
      rw [prfReady, hw] at hp
      cases hp
    exact (List.getElem?_set_ne hne).trans hw
  refine h.of_sameRob rfl h.queues.lsq (fun p' _ w => hv p' w) (fun x hx => ?_) h.unit h.lsq
    (fun l q hl hperf p' hp' => hv _ _ (h.loads l q hl hperf p' hp')) h.order
  rw [iqEntries_delivered] at hx
  obtain ⟨y, hy, rfl⟩ := List.mem_map.1 hx
  obtain ⟨i, hi, ho, himm, hsrc⟩ := h.iq y hy
  exact ⟨i, hi, ho, himm, (y.wake_tags p).trans hsrc⟩

/-- The LSQ entry of an operation takes its address, or of a load is done, with the data that belong there. -/
theorem Tracked.withLsq {l : Nat} {q q' : LsqEntry} (hl : lsqAt s l = some q) (hdata : LsqData z s q')
    (hload : LoadData s q') (hpass : ∀ a, passes a q = true → passes a q' = true)
    (hold : ∀ xs ys, lsqInOrder s = xs ++ (l, q) :: ys → Performed s q' → ∀ y ∈ xs, passes q'.addr y.2 = true) :
    Tracked pc z (withLsq l q' s) := by
  have hcases : ∀ k x, lsqAt (Machine.withLsq l q' s) k = some x → x = q' ∨ lsqAt s k = some x := fun k x hx => by
    by_cases hk : k = l
    · subst hk
      exact .inl (Option.some.inj (hx.symm.trans (lsqAt_withLsq_self hl)))
    · exact .inr ((ringAt_set_ne (Ne.symm hk)).symm.trans hx)
  refine h.of_sameRob rfl (h.queues.lsq.set hl q') (fun _ _ _ hw => hw) h.iq h.unit (fun k x hx => ?lsq) (fun k x hx => ?loads) ?order
  case lsq =>
    obtain rfl | hx := hcases k x hx
    · exact hdata
    · exact h.lsq k x hx
  case loads =>
    obtain rfl | hx := hcases k x hx
    · exact hload
    · exact h.loads k x hx
  case order =>
    obtain ⟨xs, ys, hxs, hys⟩ := ringEntries_set h.queues.lsq hl q'
    have horder := h.order
    rw [LoadOrder, show lsqInOrder s = _ from hxs, List.pairwise_append, List.pairwise_cons] at horder
    obtain ⟨hx, ⟨hy, hyy⟩, hxy⟩ := horder
    rw [LoadOrder, show lsqInOrder (Machine.withLsq l q' s) = _ from hys, List.pairwise_append, List.pairwise_cons]
    refine ⟨hx, ⟨fun y hmem hperf => hpass _ (hy y hmem hperf), hyy⟩, fun x hmem => List.forall_mem_cons.2 ⟨fun hperf => ?_, ?_⟩⟩
    · exact hold xs ys hxs hperf x hmem
    · exact fun y hy => hxy x hmem y (List.mem_cons_of_mem _ hy)

/-- An LSQ entry that is not performed yet blocks no less when its address is recorded. -/
theorem Tracked.withUnperformed {l : Nat} {q q' : LsqEntry} (hl : lsqAt s l = some q) (hdata : LsqData z s q')
    (hpass : ∀ a, passes a q = true → passes a q' = true) (hno : ¬ Performed s q') : Tracked pc z (Machine.withLsq l q' s) :=
  h.withLsq hl hdata (fun hperf => absurd hperf hno) hpass fun _ _ _ hperf => absurd hperf hno

end

/-- Two ROB entries are of one dispatched instruction; how far it has come may differ. -/
structure RobEntry.SameDispatch (e e' : RobEntry) : Prop extends e.SameInstr e' where
  pc : e'.pc = e.pc
  predTaken : e'.predTaken = e.predTaken
  predTarget : e'.predTarget = e.predTarget

theorem RobEntry.SameDispatch.predNext_eq {e e' : RobEntry} (h : e.SameDispatch e') : predNext e' = predNext e := by
  rw [predNext, predNext, h.opcode, h.pc, h.predTaken, h.predTarget]

/-- How far an instruction has come does not matter to the path. -/
theorem path_replace {e e' : RobEntry} (h : e.SameDispatch e') {a b : Word} {es fs : List RobEntry} :
    Path a (es ++ e' :: fs) b ↔ Path a (es ++ e :: fs) b := by
  simp only [path_append, Path, h.pc, h.predNext_eq]

/-- The ROB entry of an instruction may be rewritten with the data that belong there. -/
theorem Tracked.withRob {pc : Word} {z : Option Nat} {s : State} (h : Tracked pc z s) {r : Nat} {e e' : RobEntry}
    (he : robAt s r = some e) (hsame : e.SameDispatch e') (hdata : EntryData z s r e') : Tracked pc z (withRob r e' s) := by
  obtain ⟨xs, ys, hxs, hys⟩ := ringEntries_set h.queues.rob he e'
  have hR : robInOrder s = xs ++ (r, e) :: ys := hxs
  have hR' : robInOrder (Machine.withRob r e' s) = xs ++ (r, e') :: ys := hys
  have ho : SameOrder (robInOrder s) (robInOrder (Machine.withRob r e' s)) := by
    rw [hR, hR']
    exact .replace hsame.toSameInstr r xs ys
  have hself : robAt (Machine.withRob r e' s) r = some e' := robAt_withRob_self he
  have hother : ∀ k ≠ r, robAt (Machine.withRob r e' s) k = robAt s k := fun k hk => ringAt_set_ne hk.symm
  have hk : ∀ k, KeepsSlot z z s (Machine.withRob r e' s) k := fun k => by
    refine ⟨fun i hi => ?_, mapBefore_of_sameOrder ho rfl rfl rfl k, zsrcBefore_of_sameOrder ho rfl rfl z k⟩
    by_cases hkr : k = r
    · subst hkr
      rw [instrIn, he] at hi
      rw [instrIn, hself, Option.bind_some, hsame.pc]
      exact hi
    · rw [instrIn, hother k hkr]
      exact hi
  have hv : KeepsValues s (Machine.withRob r e' s) := fun _ _ _ hw => hw
  have hpath : Path pc ((robInOrder (Machine.withRob r e' s)).map Prod.snd) (frontPc s) := by
    have := h.path
    rw [hR, List.map_append, List.map_cons] at this
    rw [hR', List.map_append, List.map_cons]
    exact (path_replace hsame).2 this
  exact {
    queues := ⟨h.queues.rob.set he e', h.queues.robTail, h.queues.lsq, h.queues.lsqTail⟩
    committed := h.committed
    zsrc := h.zsrc.trans (ho.replayZsrc_eq z).symm
    bis := fun ck hck => (h.bis ck hck).trans (hk _).zsrc.symm
    path := hpath
    latch := h.latch
    rob := fun k x hx => by
      by_cases hkr : k = r
      · subst hkr
        obtain rfl := Option.some.inj (hself.symm.trans hx)
        exact hdata.of_keeps (hk k) hv (fun _ => rfl) fun p hp => mem_owned_of_dest h.queues he (hsame.pd.symm.trans hp)
      · rw [hother k hkr] at hx
        exact (h.rob k x hx).of_keeps (hk k) hv (fun _ => rfl) fun p hp => mem_owned_of_dest h.queues hx hp
    iq := fun x hx => (h.iq x hx).of_keeps (hk _)
    unit := fun c op hop => (h.unit c op hop).of_keeps (hk _) hv
    lsq := fun l q hl => (h.lsq l q hl).of_keeps (hk _) hv
    loads := h.loads
    order := h.order }

/-- The ROB entry of a memory operation holds no result; its LSQ entry does. -/
theorem Tracked.withMemoryRob {pc : Word} {z : Option Nat} {s : State} (h : Tracked pc z s) {r : Nat} {e e' : RobEntry}
    (he : robAt s r = some e) (hu : usesLsq e.opcode = true) (hsame : e.SameDispatch e') : Tracked pc z (Machine.withRob r e' s) := by
  refine h.withRob he hsame ⟨?_, fun _ hno => ?_⟩
  · rw [hsame.opcode, hsame.rd, hsame.pc]
    exact (h.rob r e he).fetched
  · rw [hsame.opcode, hu] at hno
    cases hno

/-- An operation that moves to its next stage stays what it is (R196). -/
theorem Tracked.advanceUnit {pc : Word} {z : Option Nat} {s : State} (h : Tracked pc z s) (c : UnitClass) :
    Tracked pc z (advanceUnit c s) := by
  obtain ⟨i, m, b, e, hframe⟩ := setUnit_frame c (advance (unitStages c s)) s
  have hunit : ∀ c' op, some op ∈ unitStages c' (Machine.advanceUnit c s) → UnitData z s op := fun c' op hop => by
    by_cases hc : c' = c
    · subst hc
      rw [Machine.advanceUnit, unitStages_setUnit_self] at hop
      obtain ⟨op', hop', rfl⟩ := exists_of_mem_advance hop
      obtain ⟨i, hops, ho, himm⟩ := h.unit _ op' hop'
      exact ⟨i, hops, ho, himm⟩
    · rw [Machine.advanceUnit, unitStages_setUnit_ne hc] at hop
      exact h.unit c' op hop
  rw [Machine.advanceUnit, hframe] at hunit ⊢
  exact h.of_sameRob rfl h.queues.lsq (fun _ _ _ hw => hw) h.iq hunit h.lsq h.loads h.order

/-! ### The load access, the units, issue -/

/-- No entry before the load that is performed blocks it (R286). -/
theorem firstEligible_passes {older : List LsqEntry} {L : List (Nat × LsqEntry)} {x : Nat × LsqEntry}
    (h : firstEligible older L = some x) : ∃ xs ys, L = xs ++ x :: ys ∧ ∀ y ∈ xs, passes x.2.addr y.2 = true := by
  suffices hgen : ∃ xs ys, L = xs ++ x :: ys ∧ (older ++ xs.map Prod.snd).all (passes x.2.addr) = true by
    obtain ⟨xs, ys, hL, hall⟩ := hgen
    rw [List.all_append, Bool.and_eq_true, List.all_eq_true, List.all_eq_true] at hall
    exact ⟨xs, ys, hL, fun y hy => hall.2 y.2 (List.mem_map_of_mem hy)⟩
  induction L generalizing older with
  | nil => cases h
  | cons y L ih =>
    obtain ⟨l, q⟩ := y
    rw [firstEligible] at h
    split at h
    · rename_i hel
      obtain rfl := Option.some.inj h
      rw [eligible, Bool.and_eq_true] at hel
      exact ⟨[], L, rfl, by simpa using hel.2⟩
    · obtain ⟨xs, ys, rfl, hall⟩ := ih h
      exact ⟨(l, q) :: xs, ys, rfl, by simpa using hall⟩

/-- An entry stands at one place of a list of entries whose slots are distinct. -/
theorem eq_of_append_cons {α : Type} {xs xs' ys ys' : List (Nat × α)} {x : Nat × α} (hnodup : ((xs ++ x :: ys).map Prod.fst).Nodup)
    (h : xs ++ x :: ys = xs' ++ x :: ys') : xs = xs' := by
  have hn := List.nodup_middle.1 hnodup.of_map
  rw [List.nodup_cons, List.mem_append, not_or] at hn
  exact ((List.append_cons_inj_of_notMem hn.1.1 hn.1.2).1 h).1

theorem RobEntry.sameDispatch_completed (e : RobEntry) : e.SameDispatch e.completed := ⟨e.sameInstr_completed, rfl, rfl, rfl⟩

theorem isBranch_of_branchOutcome {op : UnitLatch} {a : Word} {o : Bool × Word} (h : branchOutcome op a = some o) :
    isBranch op.opcode = true := by
  unfold branchOutcome at h
  cases ho : op.opcode <;> simp_all [isBranch]

theorem aluResult_eq_none_of_unitClass {op : UnitLatch} (h : unitClass op.opcode = .br) : aluResult op = none := by
  unfold aluResult
  cases ho : op.opcode <;> simp_all [unitClass]

/-- Recording the address of an operation that had none unblocks no less. -/
theorem passes_addressed {q : LsqEntry} (hq : q.addrValid = false) (a v b : Word) (h : passes b q = true) :
    passes b (q.addressed a v) = true := by
  obtain ⟨-, hst, -⟩ := q.addressed_fields a v
  have hload : q.isStore = false := by simpa [passes, hq] using h
  simp [passes, hst, hload]

section
variable {pc : Word} {z : Option Nat} {s t : State} (hs : EngineInv s) (h : Tracked pc z s)
include hs h

theorem lsqLoadAccess_tracked (ht : lsqLoadAccess s = .next t) : Tracked pc z t := by
  obtain ⟨-, rfl⟩ | ⟨l, q, p, e, hfirst, hpd, hin, hready, he, rfl⟩ := lsqLoadAccess_eq_next ht
  · exact h
  obtain ⟨xs, ys, hxs, hpass⟩ := firstEligible_passes hfirst
  obtain ⟨hmem, hw⟩ := firstEligible_eq_some hfirst
  have hl : lsqAt s l = some q := (mem_lsqInOrder h.queues).1 hmem
  obtain ⟨e', he', hu⟩ := hs.coupled.order.owner h.queues hl
  obtain rfl := Option.some.inj (he'.symm.trans he)
  have hbus := h.delivered (memRead s q.addr) hready
  have hdone : Tracked pc z (withLsq l q.finished (delivered p (memRead s q.addr) s)) := by
    refine hbus.withLsq hl (hbus.lsq l q hl) (fun _ p' hp' => ?_) (fun _ hp => hp) fun xs' ys' hxs' _ => ?_
    · obtain rfl : p = p' := Option.some.inj (hpd.symm.trans hp')
      exact holds_delivered hready _
    · have hnodup := ringEntries_nodup h.queues.lsq
      rw [← lsqInOrder_eq, hxs] at hnodup
      exact eq_of_append_cons hnodup (hxs.symm.trans hxs') ▸ hpass
  exact hdone.withMemoryRob (e' := e'.completed) he hu e'.sameDispatch_completed

section
variable {c : UnitClass} {op : UnitLatch} (hop : lastOp (unitStages c s) = some op)
include hop

theorem aluLast_tracked (hc : c = .mul ∨ c = .int) (ht : aluLast op s = .next t) : Tracked pc z (advanceUnit c t) := by
  refine Tracked.advanceUnit ?_ c
  obtain ⟨-, e, he, -, hpd, -⟩ := hs.coupled.lastOp hop
  obtain ⟨i, hops, hruns⟩ := h.unit c op (mem_of_lastOp hop)
  obtain ⟨-, hbr, -⟩ := aluKind ((hs.coupled.unit c op (mem_of_lastOp hop)).unit ▸ hc)
  have hnobranch : ∀ a o, branchOutcome op a ≠ some o := fun a o ho => nomatch hbr.symm.trans (isBranch_of_branchOutcome ho)
  obtain ⟨f, hf, ⟨rfl, hnone⟩ | ⟨v, p, hv, hp, hready, rfl⟩⟩ := aluLast_eq_next ht
  all_goals obtain rfl := Option.some.inj (hf.symm.trans he)
  · refine h.withRob he f.sameDispatch_completed ⟨(h.rob _ _ he).fetched, fun _ _ => ⟨i, op.vals, hops, ?_, ?_⟩⟩
    · intro v p hv hp
      rw [hruns.aluResult_eq] at hv
      obtain hnone | hnone := hnone
      · exact nomatch hv.symm.trans hnone
      · exact nomatch hp.symm.trans (hpd.trans hnone)
    · exact fun o ho => absurd (hruns.branchOutcome_eq _ ▸ ho) (hnobranch _ o)
  · have hbus := h.delivered v hready
    obtain ⟨i', hops', hruns'⟩ := hbus.unit c op (by cases c <;> exact mem_of_lastOp hop)
    refine hbus.withRob (e' := f.completed) he f.sameDispatch_completed
      ⟨(hbus.rob _ _ he).fetched, fun _ _ => ⟨i', op.vals, hops', ?_, ?_⟩⟩
    · intro w p' hw hp'
      obtain rfl : p = p' := Option.some.inj (hp.symm.trans (hpd.symm.trans hp'))
      obtain rfl : v = w := Option.some.inj (hv.symm.trans (hruns'.aluResult_eq ▸ hw))
      exact holds_delivered hready v
    · exact fun o ho => absurd (hruns'.branchOutcome_eq _ ▸ ho) (hnobranch _ o)

theorem branchLast_tracked (hc : c = .br) (ht : branchLast op s = .next t) : Tracked pc z (advanceUnit c t) := by
  refine Tracked.advanceUnit ?_ c
  obtain ⟨-, e, he, -⟩ := hs.coupled.lastOp hop
  obtain ⟨i, hops, hruns⟩ := h.unit c op (mem_of_lastOp hop)
  obtain ⟨f, taken, target, hf, hout, rfl⟩ := branchLast_eq_next ht
  obtain rfl := Option.some.inj (hf.symm.trans he)
  have hnoresult := aluResult_eq_none_of_unitClass ((hs.coupled.unit c op (mem_of_lastOp hop)).unit.trans hc)
  refine h.withRob he ⟨⟨rfl, rfl, rfl, rfl⟩, rfl, rfl, rfl⟩ ⟨(h.rob _ _ he).fetched, fun _ _ => ⟨i, op.vals, hops, ?_, ?_⟩⟩
  · intro v p hv
    rw [hruns.aluResult_eq, hnoresult] at hv
    cases hv
  · intro o ho
    rw [hruns.branchOutcome_eq] at ho
    exact Option.some.inj (ho.symm.trans hout)

theorem memLast_tracked (hc : c = .mem) (ht : memLast op s = .next t) : Tracked pc z (advanceUnit c t) := by
  refine Tracked.advanceUnit ?_ c
  obtain ⟨-, e, he, ho, -, hcomplete, -, hi⟩ := hs.coupled.lastOp hop
  have hunit := hs.coupled.unit c op (mem_of_lastOp hop)
  obtain ⟨i, hops, hruns⟩ := h.unit c op (mem_of_lastOp hop)
  have hu : usesLsq e.opcode = true := ho ▸ (memAddress_of_unitClass (hunit.unit.trans hc)).1
  obtain ⟨a, ha, hrec⟩ := memLast_eq_next ht
  obtain ⟨l, q, hl, hq, hcases⟩ := memRecord_eq_next hrec
  obtain ⟨hno, -⟩ | ⟨k, q', hk, -, hq', hqr, haddr⟩ := lsqLink_iff.1 hunit.lsq
  · exact nomatch hl.symm.trans hno
  obtain rfl : l = k := Option.some.inj (hl.symm.trans hk)
  obtain rfl : q = q' := Option.some.inj (hq.symm.trans hq')
  obtain ⟨-, -, hdone, -⟩ := lsqAgrees_iff.1 (hi.lsq l q hq hqr)
  obtain ⟨hrob, hst, -, -, haddr'⟩ := q.addressed_fields a (op.val 1)
  have hdata : LsqData z s (q.addressed a (op.val 1)) := fun _ => by
    rw [hrob, hqr, haddr', hst]
    refine ⟨i, op.vals, hops, hruns.memAddress_eq.trans ha, fun hstore => ?_⟩
    rw [LsqEntry.addressed_of_store hstore]
    rfl
  have hpass := passes_addressed haddr a (op.val 1)
  obtain ⟨-, hload, rfl⟩ | ⟨f, hf, ⟨-, hstore, rfl⟩ | ⟨hout, rfl⟩⟩ := hcases
  · refine h.withUnperformed hq hdata hpass fun ⟨_, hperf, _⟩ => ?_
    rw [LsqEntry.addressed_of_load hload] at hperf
    exact nomatch hperf.symm.trans (hdone.trans hcomplete)
  · obtain rfl := Option.some.inj (hf.symm.trans he)
    have hrecorded := h.withUnperformed hq hdata hpass fun ⟨hperf, _⟩ =>
      nomatch hperf.symm.trans (hst.trans hstore)
    exact hrecorded.withMemoryRob he hu f.sameDispatch_completed
  · obtain rfl := Option.some.inj (hf.symm.trans he)
    have hrecorded := h.withUnperformed (q' := (q.addressed a (op.val 1)).finished) hq hdata hpass fun ⟨_, _, hperf⟩ =>
      nomatch hperf.symm.trans (show inData s (q.addressed a (op.val 1)).addr = false from haddr'.symm ▸ hout)
    exact hrecorded.withMemoryRob (e' := f.faulted a) he hu ⟨⟨rfl, rfl, rfl, rfl⟩, rfl, rfl, rfl⟩

end

theorem evalUnit_tracked {c : UnitClass} (ht : evalUnit c s = .next t) : Tracked pc z t := by
  obtain ⟨-, rfl⟩ | ⟨op, u, hop, hu, rfl⟩ := evalUnit_eq_next ht
  · exact h.advanceUnit c
  · cases c with
    | mem => exact memLast_tracked hs h hop rfl hu
    | br => exact branchLast_tracked hs h hop rfl hu
    | mul => exact aluLast_tracked hs h hop (.inl rfl) hu
    | int => exact aluLast_tracked hs h hop (.inr rfl) hu

omit hs h in
theorem holds_of_prfRead {p : Nat} {v : Word} (hv : prfRead s p = some v) : Holds s p v := by
  rw [prfRead_eq_filter] at hv
  obtain ⟨x, hx, rfl⟩ := Option.map_eq_some_iff.1 hv
  obtain ⟨hget, hvalid⟩ := Option.filter_eq_some_iff.1 hx
  rw [Holds, hget, ← hvalid]

/-- An issued entry takes the values of its sources along (R183). -/
theorem issueClass_tracked {c : UnitClass} (ht : issueClass c s = .next t) : Tracked pc z t := by
  obtain ⟨rfl, -⟩ | ⟨q, e, vs, -, hsel, hread, rfl⟩ := issueClass_eq_next ht
  · exact h
  obtain ⟨hget, -, -⟩ := selectFor_eq_some hsel
  have hmem : e ∈ iqEntries s := mem_iqEntries.2 (List.mem_of_getElem? hget)
  obtain ⟨i, hi, ho, himm, hsrc⟩ := h.iq e hmem
  have hops : Operands z s e.rob i vs := by
    refine ⟨hi, ?_, ?_⟩
    · rw [← hsrc]
      intro p hp
      obtain ⟨x, hx, rfl⟩ := List.mem_map.1 hp
      exact ((hs.coupled.iq e hmem).src x hx).2
    · rw [← hsrc, List.forall₂_map_left_iff]
      have hvals := List.forall₂_eq_eq_eq ▸ readOperands_eq_ok.1 hread
      rw [List.forall₂_map_left_iff, List.forall₂_map_right_iff] at hvals
      exact hvals.imp fun _ _ => holds_of_prfRead
  obtain ⟨a, m, b, u, hframe⟩ := setUnit_frame c ((unitStages c s).set 0 (some (issueLatch e vs))) { s with iq := s.iq.set q none }
  have hunit : ∀ c' op, some op ∈ unitStages c' (setUnit c ((unitStages c s).set 0 (some (issueLatch e vs)))
      { s with iq := s.iq.set q none }) → UnitData z s op := fun c' op hop => by
    by_cases hc : c' = c
    · subst hc
      rw [unitStages_setUnit_self] at hop
      obtain hop | hop := List.mem_or_eq_of_mem_set hop
      · exact h.unit _ op hop
      · obtain rfl := Option.some.inj hop
        exact ⟨i, hops, ho, himm⟩
    · rw [unitStages_setUnit_ne hc, unitStages_withIq] at hop
      exact h.unit c' op hop
  rw [hframe] at hunit ⊢
  refine h.of_sameRob rfl h.queues.lsq (fun _ _ _ hw => hw) (fun x hx => h.iq x ?_) hunit h.lsq h.loads h.order
  exact mem_iqEntries.2 ((List.mem_or_eq_of_mem_set (mem_iqEntries.1 hx)).resolve_right nofun)

end

/-! ### The front end -/

/-- The data in flight do not see the status, and of the front end only where it goes on and what the latch holds. -/
theorem Tracked.withFront {pc : Word} {z : Option Nat} {s : State} (h : Tracked pc z s) (a : Word) (f : Bool) (d : Option DrLatch)
    (r : Stall) (n : Nat) (err : Option AddrError) (hpath : d.elim a DrLatch.pc = frontPc s)
    (hlatch : ∀ d', d = some d' → LatchOk { s with pc := a } d') :
    Tracked pc z { s with pc := a, fetchRecover := f, dr := d, lastStall := r, cycle := n, error := err } := by
  have hk : ∀ k, KeepsSlot z z s { s with pc := a, fetchRecover := f, dr := d, lastStall := r, cycle := n, error := err } k :=
    fun k => ⟨fun _ hi => hi, rfl, rfl⟩
  have hv : KeepsValues s { s with pc := a, fetchRecover := f, dr := d, lastStall := r, cycle := n, error := err } :=
    fun _ _ _ hw => hw
  exact {
    queues := ⟨h.queues.rob, h.queues.robTail, h.queues.lsq, h.queues.lsqTail⟩
    committed := h.committed
    zsrc := h.zsrc
    bis := h.bis
    path := by
      rw [frontPc, hpath]
      exact h.path
    latch := hlatch
    rob := fun r e he => (h.rob r e he).of_keeps (hk r) hv (fun _ => rfl) fun p hp => mem_owned_of_dest h.queues he hp
    iq := fun x hx => (h.iq x hx).of_keeps (hk _)
    unit := fun c op hop => (h.unit c op (by cases c <;> exact hop)).of_keeps (hk _) hv
    lsq := fun l q hl => (h.lsq l q hl).of_keeps (hk _) hv
    loads := h.loads
    order := h.order }

/-- A register lookup gives the mapping (R131, R157). -/
theorem lookupAll_tags {s : State} {is : List Nat} {ts : List SrcTag} (h : lookupAll s is = some ts) :
    ts.map SrcTag.p = is.map fun r => s.rat.getD r 0 := by
  refine (List.forall₂_eq_eq_eq ▸ List.forall₂_map_left_iff.2 (List.forall₂_map_right_iff.2 ?_) :
    ts.map SrcTag.p = is.map fun r => s.rat.getD r 0)
  refine ((lookupAll_eq_some_iff.1 h).imp fun i t hit => ?_).flip
  simp [flip, (ratLookup_eq_some.1 hit).1]

/-- The sources looked up for the latch are those that the front map gives its instruction (R157). -/
theorem sourceTags_tags {s : State} {d : DrLatch} {i : Instr} {b : Bool} {src : List SrcTag}
    (hd : d = latchOf d.pc i b) (hsrc : sourceTags d s = some src) :
    src.map SrcTag.p = sourceRegs i s.rat s.zsrc := by
  have ho : d.opcode = i.opcode := by rw [hd]; rfl
  have hregs : srcRegs d = srcRegs (drOf 0 i) := by rw [hd]; rfl
  unfold sourceRegs
  cases hz : readsZero i.opcode with
  | true => exact (sourceTags_zero hsrc (ho ▸ hz)).1
  | false =>
    rw [sourceTags, ho, hz, if_neg nofun, hregs] at hsrc
    exact lookupAll_tags hsrc

section
variable {pc : Word} {z : Option Nat} {s t : State} (hs : EngineInv s) (h : Tracked pc z s)
include hs

section
variable {d : DrLatch} (src : List SrcTag) (hroom : stallReason d.opcode s = .none)

/-- A dispatch allocates a register that is not in use, and changes no other (R139). -/
theorem prf_dispatchWith {p : Nat} (hp : p ∈ owned s) : (dispatchWith d src s).prf[p]? = s.prf[p]? := by
  rw [dispatchWith_eq]
  cases hd : destReg d s with
  | none => rfl
  | some p' =>
    obtain ⟨-, hno⟩ := pickFree_not_owned hs.coupled hs.shape (destReg_eq_some hd).2
    have hne : p' ≠ p := fun heq => hno (heq ▸ hp)
    simp [hne]

include hroom

theorem entriesBefore_dispatchWith : (∀ r e, robAt s r = some e → entriesBefore (dispatchWith d src s) r = entriesBefore s r) ∧
    entriesBefore (dispatchWith d src s) s.robTail = (robInOrder s).map Prod.snd := by
  have hq := queuesOk_dispatchWith (src := src) hs.coupled hroom
  have hR := robInOrder_dispatchWith (src := src) hs.coupled hroom
  refine ⟨fun r e he => ?_, entriesBefore_of_append hq hR⟩
  obtain ⟨xs, ys, hsplit⟩ := List.append_of_mem ((mem_robInOrder hs.coupled.queues (x := (r, e))).2 he)
  have hnew : robInOrder (dispatchWith d src s) = xs ++ (r, e) :: (ys ++ [(s.robTail, newRob d s)]) := by simp [hR, hsplit]
  rw [entriesBefore_of_append hq hnew, entriesBefore_of_append hs.coupled.queues hsplit]

theorem keepsSlot_dispatchWith {r : Nat} {e : RobEntry} (he : robAt s r = some e) : KeepsSlot z z s (dispatchWith d src s) r := by
  have hk := dispatchWith_keepsCommitted d src s
  refine ⟨fun i hi => ?_, (mapBefore_dispatchWith hs.coupled hroom).1 r e he, ?_⟩
  · rw [instrIn, he] at hi
    rw [instrIn, (robAt_dispatchWith hs.coupled hroom).2 (.inl he), Option.bind_some, instrAt_congr hk.cfg hk.prog]
    exact hi
  · rw [zsrcBefore, zsrcBefore, (entriesBefore_dispatchWith hs src hroom).1 r e he]

include h

/-- A dispatched instruction continues the path, with the sources of the front map (R157 to R163). -/
theorem dispatchWith_tracked (hd : s.dr = some d) (hsrc : sourceTags d s = some src) : Tracked pc z (dispatchWith d src s) := by
  have hk := dispatchWith_keepsCommitted d src s
  have hR := robInOrder_dispatchWith (src := src) hs.coupled hroom
  have hdr : (dispatchWith d src s).dr = none := by rw [dispatchWith_eq]
  have hz : (dispatchWith d src s).zsrc = (newRob d s).zsrcAfter s.zsrc := by rw [dispatchWith_eq]
  obtain ⟨hpc, i, b, hi, hlatch⟩ := h.latch d hd
  have ho : d.opcode = i.opcode := by rw [hlatch]; rfl
  have hat : ∀ a, instrAt (dispatchWith d src s) a = instrAt s a := instrAt_congr hk.cfg hk.prog
  have hslot : ∀ {r e}, robAt s r = some e → KeepsSlot z z s (dispatchWith d src s) r := keepsSlot_dispatchWith hs src hroom
  have hv : KeepsValues s (dispatchWith d src s) := fun p hp v hw => (prf_dispatchWith hs src hp).trans hw
  have hnewZ : zsrcBefore z (dispatchWith d src s) s.robTail = s.zsrc := by
    rw [zsrcBefore, (entriesBefore_dispatchWith hs src hroom).2, h.zsrc]
  have hnewSlot : robAt (dispatchWith d src s) s.robTail = some (newRob d s) :=
    (robAt_dispatchWith hs.coupled hroom).2 (.inr ⟨rfl, rfl⟩)
  have hnewInstr : instrIn (dispatchWith d src s) s.robTail = some i := by
    rw [instrIn, hnewSlot, Option.bind_some, hat]
    exact hi
  have hinFlight : ∀ {r o pd}, robLink s o r pd = true → KeepsSlot z z s (dispatchWith d src s) r := fun hl => by
    obtain ⟨e, he, -⟩ := robLink_iff.1 hl
    exact hslot he
  have howner : ∀ {l q}, lsqAt s l = some q → KeepsSlot z z s (dispatchWith d src s) q.rob := fun hl => by
    obtain ⟨e, he, -⟩ := hs.coupled.order.owner h.queues hl
    exact hslot he
  refine {
    queues := queuesOk_dispatchWith hs.coupled hroom
    committed := fun p hp => hk.rrat.symm ▸ h.committed p hp
    zsrc := ?zsrc, bis := ?bis, path := ?path, latch := fun d' hd' => (nomatch hdr.symm.trans hd')
    rob := ?rob, iq := ?iq
    unit := fun c op hop => ?unit, lsq := fun l q hl => ?lsq, loads := fun l q hl => ?loads, order := ?order }
  case zsrc => rw [hR, List.map_append, List.map_singleton, replayZsrc_append, ← h.zsrc, hz]
  case bis =>
    intro ck hck
    rw [bis_dispatchWith, List.mem_append] at hck
    obtain hck | hck := hck
    · obtain ⟨-, -, -, -, -, hbranches, -⟩ := hs.coupled.rename
      obtain ⟨x, hx, hrob⟩ := List.mem_map.1 (hbranches ▸ List.mem_map_of_mem (f := Checkpoint.rob) hck)
      have hx := (mem_robInOrder h.queues).1 (List.mem_filter.1 hx).1
      exact (h.bis ck hck).trans (hslot (hrob ▸ hx)).zsrc.symm
    · split at hck
      · obtain rfl := List.mem_singleton.1 hck
        exact hnewZ.symm
      · cases hck
  case path =>
    have hfront : frontPc (dispatchWith d src s) = predNext (newRob d s) := by
      rw [frontPc, hdr, Option.elim_none, pc_dispatchWith, hpc]
      rfl
    have hpath := h.path
    rw [frontPc, hd, Option.elim_some] at hpath
    rw [hR, List.map_append, List.map_singleton, path_append, hfront]
    exact ⟨d.pc, hpath, rfl, rfl⟩
  case rob =>
    intro r e he
    obtain he | ⟨rfl, rfl⟩ := (robAt_dispatchWith hs.coupled hroom).1 he
    · exact (h.rob r e he).of_keeps (hslot he) hv hat fun p hp => mem_owned_of_dest h.queues he hp
    · exact ⟨⟨i, (hat _).trans hi, ho, show d.rd = _ by rw [hlatch]; rfl⟩, nofun⟩
  case iq =>
    intro x hx
    obtain rfl | hx := (mem_iqEntries_dispatchWith hroom).1 hx
    · refine ⟨i, hnewInstr, ho, show d.imm = _ by rw [hlatch]; rfl, ?_⟩
      rw [sourcesOf, show (newIq d src s).rob = s.robTail from rfl, (mapBefore_dispatchWith hs.coupled hroom).2, hnewZ]
      exact sourceTags_tags hlatch hsrc
    · exact (h.iq x hx).of_keeps (hinFlight (hs.coupled.iq x hx).rob)
  case unit =>
    rw [unitStages_dispatchWith] at hop
    exact (h.unit c op hop).of_keeps (hinFlight (hs.coupled.unit c op hop).rob) hv
  case lsq =>
    obtain hl | ⟨-, -, rfl⟩ := (lsqAt_dispatchWith hs.coupled hroom).1 hl
    · exact (h.lsq l q hl).of_keeps (howner hl) hv
    · exact nofun
  case loads =>
    obtain hl | ⟨-, -, rfl⟩ := (lsqAt_dispatchWith hs.coupled hroom).1 hl
    · refine (h.loads l q hl).of_keeps hk.cfg hk.dmem hv fun p hp => ?_
      obtain ⟨e, he, -⟩ := hs.coupled.order.owner h.queues hl
      obtain ⟨-, hpd, -⟩ := lsqAgrees_iff.1 ((hs.coupled.instr _ e he List.not_mem_nil).lsq l q hl rfl)
      exact mem_owned_of_dest h.queues he (hpd.symm.trans hp)
    · rintro ⟨-, hdone, -⟩
      cases hdone
  case order =>
    have hnew : ∀ y ∈ if usesLsq d.opcode then [(s.lsqTail, newLsq d s)] else [], ¬ Performed (dispatchWith d src s) y.2 := by
      intro y hy
      split at hy
      · obtain rfl := List.mem_singleton.1 hy
        rintro ⟨-, hdone, -⟩
        cases hdone
      · cases hy
    rw [LoadOrder, lsqInOrder_dispatchWith hs.coupled hroom, List.pairwise_append]
    refine ⟨?_, ?_, fun x _ y hy hperf => absurd hperf (hnew y hy)⟩
    · simp only [Performed, inData, hk.cfg]
      exact h.order
    · split <;> simp

end

include h

theorem dispatch_tracked (ht : dispatch s = .next t) : Tracked pc z t := by
  obtain ⟨hd, rfl⟩ | ⟨d, hd, ⟨-, rfl⟩ | ⟨src, hr, hsrc, rfl⟩⟩ := dispatch_eq_next ht
  · exact h.withFront s.pc s.fetchRecover s.dr _ s.cycle s.error rfl h.latch
  · refine h.withFront s.pc s.fetchRecover _ _ s.cycle s.error (by rw [frontPc, hd]; rfl) fun d' hd' => ?_
    obtain rfl := Option.some.inj hd'
    obtain ⟨hpc, i, b, hi, hlatch⟩ := h.latch d hd
    exact ⟨hpc, i, true, hi, congrArg (fun d => { d with stalled := true }) hlatch⟩
  · exact dispatchWith_tracked hs h src hr hd hsrc

omit hs in
/-- Fetch takes the instruction at the end of the path into the latch (R150). -/
theorem fetch_tracked (ht : fetch s = .next t) : Tracked pc z t := by
  obtain ⟨-, rfl⟩ | ⟨-, rfl, -⟩ | ⟨i, -, hd, hi, -, rfl⟩ := fetch_eq_next ht
  · exact h.withFront s.pc _ s.dr s.lastStall s.cycle s.error rfl h.latch
  · exact h
  · refine h.withFront _ s.fetchRecover _ s.lastStall s.cycle s.error (by rw [frontPc, hd]; rfl) fun d' hd' => ?_
    obtain rfl := Option.some.inj hd'
    exact ⟨rfl, i, false, hi, rfl⟩

end

end Sys2Proof.Machine

/-! ## Commit follows the reference interpreter

SUPPORT. The head of the ROB has the committed registers and the committed zero condition as its operands, so its retirement, or the
error it raises, is the reference interpreter's next instruction (R220, R320 to R328, R340). -/

namespace Sys2Proof.Machine

/-- The engine shows the reference state `r`, `z` being the register of the committed zero condition (R23, R48, R220). -/
structure Shows (z : Option Nat) (s : State) (r : RefState) : Prop where
  registers : registers s = r.x
  dmem : s.dmem = r.dmem
  halted : s.halted = r.halted
  error : r.error = none
  zeroNone : z = none → r.z = false
  zero : ∀ p v, z = some p → Holds s p v → r.z = isZero v

theorem step?_of_instrAt {s : State} {r : RefState} {i : Instr} (hh : r.halted = false) (he : r.error = none)
    (hi : instrAt s r.pc = some i) : Ref.step? s.cfg s.prog r = some (Ref.exec s.cfg i r) := by
  rw [instrAt_eq_fetchAt] at hi
  simp [Ref.step?, hh, he, hi]

theorem instrAt_mem {s : State} {a : Word} {i : Instr} (hi : instrAt s a = some i) : i ∈ s.prog := by
  unfold instrAt at hi
  split at hi
  · exact List.mem_of_getElem? hi
  · cases hi

theorem readReg_of_holds {s : State} {k p : Nat} {v : Word} (hk : s.rrat[k]? = some p) (hv : Holds s p v) : readReg s k = v := by
  rw [Holds] at hv
  simp [readReg, hk, hv]

/-! ### The head's operands -/

section
variable {z : Option Nat} {s : State} {r : RefState} (hs : EngineInv s) (h : Tracked r.pc z s) (hr : Shows z s r)
include hs hr

/-- The sources of the head are the committed registers, or the committed zero condition (R48, R137). -/
theorem refOperands_of_head {i : Instr} {vs : List Word} (hops : Operands z s s.robHead i vs) (hi : i ∈ s.prog) : RefOperands r i vs := by
  have hvals := hops.values
  rw [sourcesOf, mapBefore_eq, zsrcBefore, entriesBefore_head] at hvals
  change List.Forall₂ (Holds s) (sourceRegs i s.rrat z) vs at hvals
  constructor
  · intro hz
    rw [sourceRegs, hz, if_neg nofun, List.forall₂_map_left_iff] at hvals
    obtain ⟨⟨-, hprog⟩, -⟩ := id hs
    obtain ⟨-, -, -, hlen, -⟩ := hs.shape
    have hbound := (drOf_registers (pc := 0) (hprog i hi)).2
    have hall : List.Forall₂ (fun k v => Ref.reg r k = v) (srcRegs (drOf 0 i)) vs := by
      rw [List.forall₂_iff_get] at hvals ⊢
      refine ⟨hvals.1, fun j hj hj' => ?_⟩
      have hlt := hbound _ (List.get_mem _ ⟨j, hj⟩)
      have hget : s.rrat[(srcRegs (drOf 0 i)).get ⟨j, hj⟩]? = some (s.rrat.getD ((srcRegs (drOf 0 i)).get ⟨j, hj⟩) 0) := by
        rw [List.getD_eq_getElem?_getD, List.getElem?_eq_getElem (hlen ▸ hlt)]
        rfl
      rw [← readReg_of_holds hget (hvals.2 j hj hj'), Ref.reg, ← hr.registers, registers, List.getD_eq_getElem?_getD,
        List.getElem?_map, List.getElem?_range hlt]
      rfl
    exact (List.forall₂_eq_eq_eq ▸ List.forall₂_map_left_iff.2 hall : List.map (Ref.reg r) _ = vs).symm
  · intro hz
    rw [sourceRegs, if_pos hz] at hvals
    cases z with
    | none =>
      cases hvals
      exact (hr.zeroNone rfl).symm
    | some p =>
      obtain ⟨v, ws, hv, hws, rfl⟩ := List.forall₂_cons_left_iff.1 hvals
      exact (hr.zero p v rfl hv).symm

end

/-! ### The kinds of instructions -/

theorem isStoreOp_of_not_usesLsq {o : Opcode} (h : usesLsq o = false) : isStoreOp o = false := by
  cases o with
  | load | ldr | store | str => cases h
  | add | sub | and | or | xor | mul | movc | bz | bnz | jump | halt => rfl

section
variable {i : Instr} {vs : List Word}

theorem exists_aluResult (hd : hasDest i.opcode = true) (hu : usesLsq i.opcode = false) : ∃ v, aluResult (operationOf i vs) = some v := by
  cases i with
  | add | sub | and | or | xor | mul | movc => exact ⟨_, rfl⟩
  | load | ldr | store | str => cases hu
  | bz | bnz | jump | halt => cases hd

theorem exists_branchOutcome (hb : isBranch i.opcode = true) (pc : Word) : ∃ o, branchOutcome (operationOf i vs) pc = some o := by
  cases i with
  | bz | bnz | jump => exact ⟨_, rfl⟩
  | add | sub | and | or | xor | mul | movc | load | ldr | store | str | halt => cases hb

theorem eq_halt_of_no_effect (hd : hasDest i.opcode = false) (hu : usesLsq i.opcode = false) (hb : isBranch i.opcode = false) :
    i = .halt := by
  cases i with
  | halt => rfl
  | add | sub | and | or | xor | mul | movc => cases hd
  | load | ldr | store | str => cases hu
  | bz | bnz | jump => cases hb

end

/-! ### What a retirement does to the reference state -/

/-- Where execution goes on after a complete instruction (R22, R327). -/
def actNext (e : RobEntry) : Word := if isBranch e.opcode then branchNext e.pc e.actTaken e.actTarget else nextSeq e.pc

/-- The reference state `r'` after `r` is what the retirement of the head entry `e` makes of it (R323 to R326). -/
structure Commits (s : State) (e : RobEntry) (r r' : RefState) : Prop where
  dest : ∀ p, e.pd = some p → ∃ v, Holds s p v ∧ r'.x = r.x.set e.rd v ∧ r'.z = isZero v
  noDest : e.pd = none → r'.x = r.x ∧ r'.z = r.z
  store : isStoreOp e.opcode = true → ∀ q, lsqAt s s.lsqHead = some q → r'.dmem = r.dmem.write q.addr.toNat q.value
  noStore : isStoreOp e.opcode = false → r'.dmem = r.dmem
  halted : r'.halted = (r.halted || decide (e.opcode = .halt))
  error : r'.error = r.error
  pc : r'.pc = actNext e

section
variable {z : Option Nat} {s : State} {r : RefState} (hs : EngineInv s) (h : Tracked r.pc z s) (hr : Shows z s r) {e : RobEntry}
  (he : robAt s s.robHead = some e)
include hs h he

/-- The head stands at the reference state's pc (R340). -/
theorem head_pc : e.pc = r.pc := by
  obtain ⟨R, hR⟩ := robInOrder_of_head hs he
  have hpath := h.path
  rw [hR] at hpath
  exact hpath.1

omit hs h in
theorem instrIn_head {i : Instr} (hi : instrIn s s.robHead = some i) : instrAt s e.pc = some i := by
  rwa [instrIn, he] at hi

include hr

/-- A head that is no memory operation: its result or its outcome is the reference interpreter's. -/
theorem commits_of_result (hc : e.complete = true) (hu : usesLsq e.opcode = false) :
    ∃ i, instrAt s e.pc = some i ∧ Commits s e r (Ref.exec s.cfg i r) := by
  have hpc := head_pc hs h he
  obtain ⟨i, vs, hops, hres, hout⟩ := (h.rob _ e he).result hc hu
  have hi := instrIn_head he hops.instr
  obtain ⟨i', hi', ho, hrd⟩ := (h.rob _ e he).fetched
  obtain rfl := Option.some.inj (hi.symm.trans hi')
  have hro := refOperands_of_head hs hr hops (instrAt_mem hi)
  have hpd := hs.coupled.pd_isSome he
  have hnost := isStoreOp_of_not_usesLsq hu
  refine ⟨i, hi, ?_⟩
  cases hdest : hasDest e.opcode with
  | true =>
    obtain ⟨p, hp⟩ := Option.isSome_iff_exists.1 (hpd.trans hdest)
    obtain ⟨v, hv⟩ := exists_aluResult (vs := vs) (ho ▸ hdest) (ho ▸ hu)
    have hbr : isBranch e.opcode = false := by
      cases hb : isBranch e.opcode with
      | false => rfl
      | true => simp [hasDest_of_isBranch hb] at hdest
    have hhalt : e.opcode ≠ .halt := fun hh => by simp [hh, hasDest] at hdest
    rw [exec_of_aluResult hro hv, ← hrd]
    refine ⟨fun p' hp' => ⟨v, hres v p' hv hp', rfl, rfl⟩, fun hn => (nomatch hp.symm.trans hn), fun hst => ?_, fun _ => rfl, ?_, rfl, ?_⟩
    · exact absurd (hst.symm.trans hnost) nofun
    · simp [Ref.write, hhalt]
    · simp [Ref.write, actNext, hbr, hpc]
  | false =>
    have hnone := hs.coupled.pd_eq_none he hdest
    suffices hex : Ref.exec s.cfg i r = { r with pc := actNext e, halted := r.halted || decide (e.opcode = .halt) } by
      rw [hex]
      exact ⟨fun p hp => (nomatch hnone.symm.trans hp), fun _ => ⟨rfl, rfl⟩, fun hst => absurd (hst.symm.trans hnost) nofun,
        fun _ => rfl, rfl, rfl, rfl⟩
    cases hbr : isBranch e.opcode with
    | true =>
      obtain ⟨o, hoo⟩ := exists_branchOutcome (vs := vs) (ho ▸ hbr) e.pc
      have hact := hout o hoo
      rw [hact, hpc] at hoo
      have hhalt : e.opcode ≠ .halt := fun hh => by simp [hh, isBranch] at hbr
      rw [exec_of_branchOutcome hro hoo]
      simp [actNext, hbr, hhalt, hpc]
    | false =>
      obtain rfl := eq_halt_of_no_effect (ho ▸ hdest) (ho ▸ hu) (ho ▸ hbr)
      simp [Ref.exec, Ref.perform, actNext, ho, Instr.opcode, isBranch, hpc]

end

/-! ### A memory operation at the head -/

section
variable {z : Option Nat} {s : State} {r : RefState} (hs : EngineInv s) (h : Tracked r.pc z s) (hr : Shows z s r) {e : RobEntry}
  (he : robAt s s.robHead = some e)
include hs he

/-- The LSQ's head entry is that of a memory operation at the ROB's head (R47 (b)). -/
theorem exists_lsqHead (hu : usesLsq e.opcode = true) : ∃ q, lsqAt s s.lsqHead = some q ∧ q.rob = s.robHead := by
  have horder := hs.coupled.order
  obtain ⟨R, hR⟩ := robInOrder_of_head hs he
  rw [LsqOrder, hR, List.filter_cons_of_pos (by exact hu)] at horder
  have hpos : s.lsqCount ≠ 0 := fun h0 => by simp [lsqInOrder, h0] at horder
  obtain ⟨q, hq⟩ := Option.isSome_iff_exists.1
    (hs.coupled.queues.lsq.head_occupied.trans (decide_eq_true (Nat.pos_of_ne_zero hpos)))
  exact ⟨q, hq, lsqHead_rob hs.coupled he hu hq⟩

include h hr

/-- A complete memory operation at the head accesses what the reference interpreter accesses (R280 to R284). -/
theorem exec_of_memoryHead (hc : e.complete = true) (hu : usesLsq e.opcode = true) :
    ∃ q i, lsqAt s s.lsqHead = some q ∧ lsqAgrees s e q = true ∧ q.addrValid = true ∧ instrAt s e.pc = some i ∧
      Ref.exec s.cfg i r = if isStoreOp e.opcode then Ref.store s.cfg e.pc q.addr q.value { r with pc := nextSeq e.pc }
        else Ref.load s.cfg e.pc e.rd q.addr { r with pc := nextSeq e.pc } := by
  obtain ⟨q, hq, hqr⟩ := exists_lsqHead hs he hu
  have hagrees := (hs.coupled.instr _ e he List.not_mem_nil).lsq _ q hq hqr
  obtain ⟨hstore, -, hdone, haddr, -, -⟩ := lsqAgrees_iff.1 hagrees
  have hvalid : q.addrValid = true := by
    cases hst : q.isStore <;> simpa [hst, hdone, hc] using haddr
  obtain ⟨i, vs, hops, ha, hval⟩ := h.lsq _ q hq hvalid
  rw [hqr] at hops
  have hi := instrIn_head he hops.instr
  obtain ⟨i', hi', ho, hrd⟩ := (h.rob _ e he).fetched
  obtain rfl := Option.some.inj (hi.symm.trans hi')
  refine ⟨q, i, hq, hagrees, hvalid, hi, ?_⟩
  rw [exec_of_memAddress (refOperands_of_head hs hr hops (instrAt_mem hi)) ha, ← ho, ← hrd, head_pc hs h he]
  cases hst : isStoreOp e.opcode with
  | true => rw [hval (hstore.trans hst)]
  | false => rfl

/-- A memory operation at the head that is in range does what the reference interpreter does. -/
theorem commits_of_memory (hc : e.complete = true) (hf : e.fault = false) (hu : usesLsq e.opcode = true) :
    ∃ i, instrAt s e.pc = some i ∧ Commits s e r (Ref.exec s.cfg i r) := by
  obtain ⟨q, i, hq, hagrees, hvalid, hi, hexec⟩ := exec_of_memoryHead hs h hr he hc hu
  obtain ⟨hstore, hpd, hdone, -, hfault, -⟩ := lsqAgrees_iff.1 hagrees
  have hin : inData s q.addr = true := by simpa [hf, hvalid] using hfault
  have hlt : q.addr.toNat < s.cfg.dataMemSize := of_decide_eq_true hin
  have hnext : actNext e = nextSeq e.pc := by rw [actNext, isBranch_of_usesLsq hu, if_neg nofun]
  have hhalt : e.opcode ≠ .halt := fun hh => by simp [hh, usesLsq] at hu
  refine ⟨i, hi, ?_⟩
  rw [hexec]
  cases hst : isStoreOp e.opcode with
  | true =>
    have hnone := hs.coupled.pd_eq_none he (hasDest_of_isStoreOp hst)
    rw [if_pos rfl, Ref.store, if_pos hlt]
    refine ⟨fun p hp => (nomatch hnone.symm.trans hp), fun _ => ⟨rfl, rfl⟩, fun _ q' hq' => ?_, fun hno => (nomatch hst.symm.trans hno),
      by simp [hhalt], rfl, hnext.symm⟩
    obtain rfl := Option.some.inj (hq.symm.trans hq')
    rfl
  | false =>
    obtain ⟨p, hp⟩ := Option.isSome_iff_exists.1 ((hs.coupled.pd_isSome he).trans (hasDest_of_load hu hst))
    have hload := h.loads _ q hq ⟨hstore.trans hst, hdone.trans hc, hin⟩
    rw [if_neg nofun, Ref.load, if_pos hlt]
    refine ⟨fun p' hp' => ⟨memRead s q.addr, hload p' (hpd.trans hp'), ?_⟩, fun hno => (nomatch hp.symm.trans hno),
      fun hyes => (nomatch hst.symm.trans hyes), fun _ => rfl, by simp [Ref.write, hhalt], rfl, hnext.symm⟩
    rw [memRead, hr.dmem]
    exact ⟨rfl, rfl⟩

/-- What the retirement of a complete head is for the reference interpreter: its next step (R220, R340). -/
theorem step?_of_head (hc : e.complete = true) (hf : e.fault = false) (hh : s.halted = false) :
    ∃ r', Ref.step? s.cfg s.prog r = some r' ∧ Commits s e r r' := by
  have hcommits : ∃ i, instrAt s e.pc = some i ∧ Commits s e r (Ref.exec s.cfg i r) := by
    cases hu : usesLsq e.opcode with
    | false => exact commits_of_result hs h hr he hc hu
    | true => exact commits_of_memory hs h hr he hc hf hu
  obtain ⟨i, hi, hcom⟩ := hcommits
  rw [head_pc hs h he] at hi
  exact ⟨_, step?_of_instrAt (hr.halted.symm.trans hh) hr.error hi, hcom⟩

/-- The error that a complete head raises is the one of the reference interpreter's next step (R340, R383). -/
theorem step?_of_faultingHead (hc : e.complete = true) (hf : e.fault = true) (hh : s.halted = false) :
    ∃ r', Ref.step? s.cfg s.prog r = some r' ∧ r'.error = some ⟨e.pc, e.faultAddr⟩ := by
  have hu : usesLsq e.opcode = true := by
    cases hu : usesLsq e.opcode with
    | true => rfl
    | false => exact nomatch hf.symm.trans ((hs.coupled.instr _ e he List.not_mem_nil).fault hu)
  obtain ⟨q, i, hq, hagrees, hvalid, hi, hexec⟩ := exec_of_memoryHead hs h hr he hc hu
  obtain ⟨-, -, -, -, hfault, haddr⟩ := lsqAgrees_iff.1 hagrees
  have hout : ¬ q.addr.toNat < s.cfg.dataMemSize := by simpa [hf, hvalid, inData] using hfault
  rw [head_pc hs h he] at hi
  refine ⟨_, step?_of_instrAt (hr.halted.symm.trans hh) hr.error hi, ?_⟩
  rw [hexec, (haddr hf).1]
  cases isStoreOp e.opcode with
  | true => rw [if_pos rfl, Ref.store, if_neg hout]
  | false => rw [if_neg nofun, Ref.load, if_neg hout]

end

end Sys2Proof.Machine

/-! ## A retirement in step with the reference interpreter

SUPPORT. After the head has left, the instructions behind it are still those of the program with their data, and the engine shows the
reference interpreter's next state (R323 to R328, R340). -/

namespace Sys2Proof.Machine

theorem mapAfter_of_dest {e : RobEntry} {p : Nat} (hp : e.pd = some p) (m : List Nat) : e.mapAfter m = m.set e.rd p := by
  rw [RobEntry.mapAfter, hp]

theorem mapAfter_of_noDest {e : RobEntry} (hp : e.pd = none) (m : List Nat) : e.mapAfter m = m := by rw [RobEntry.mapAfter, hp]

theorem zsrcAfter_of_dest {e : RobEntry} {p : Nat} (hp : e.pd = some p) (z : Option Nat) : e.zsrcAfter z = some p := by
  rw [RobEntry.zsrcAfter, hp]

theorem zsrcAfter_of_noDest {e : RobEntry} (hp : e.pd = none) (z : Option Nat) : e.zsrcAfter z = z := by rw [RobEntry.zsrcAfter, hp]

section
variable {pc : Word} {z : Option Nat} {s : State} {e : RobEntry} {m : Memory} {b : List (Option BtbEntry)} {rr n : Nat}
  (hs : EngineInv s) (he : robAt s s.robHead = some e)
include hs he

/-! ### The instructions behind the head -/

/-- The LSQ loses its head entry, or nothing (R289). -/
theorem lsqInOrder_retiredHead : lsqInOrder (retiredHead e m b rr n s) <:+ lsqInOrder s := by
  cases hu : usesLsq e.opcode with
  | false =>
    have hsame : lsqInOrder (retiredHead e m b rr n s) = lsqInOrder s := by simp [lsqInOrder_eq, retiredHead, hu]
    exact hsame ▸ List.suffix_rfl
  | true =>
    obtain ⟨q, hq, -⟩ := exists_lsqHead hs he hu
    have hpop := ringEntries_pop hs.coupled.queues.lsq hq
    refine ⟨[(s.lsqHead, q)], ?_⟩
    simpa [lsqInOrder_eq, retiredHead, hu] using hpop.symm

theorem keepsSlot_retiredHead {r : Nat} {x : RobEntry} (hx : robAt (retiredHead e m b rr n s) r = some x) :
    KeepsSlot z (e.zsrcAfter z) s (retiredHead e m b rr n s) r := by
  have hlsq : usesLsq e.opcode = true → ∃ q, lsqAt s s.lsqHead = some q := fun hu =>
    (exists_lsqHead hs he hu).imp fun _ hq => hq.1
  obtain ⟨hne, hold⟩ := (robAt_retiredHead he).1 hx
  refine ⟨fun i hi => ?_, mapBefore_retiredHead hs.coupled he hlsq hne hold, ?_⟩
  · rw [instrIn, hold] at hi
    rw [instrIn, hx]
    exact hi
  · have hq := queuesOk_retiredHead (m := m) (b := b) (rr := rr) (n := n) hs.coupled he hlsq
    obtain ⟨xs, ys, hsplit⟩ := List.append_of_mem ((mem_robInOrder hq (x := (r, x))).2 hx)
    have hbefore : robInOrder s = ((s.robHead, e) :: xs) ++ (r, x) :: ys := by
      rw [robInOrder_retiredHead (m := m) (b := b) (rr := rr) (n := n) hs.coupled he, hsplit]
      rfl
    rw [zsrcBefore, zsrcBefore, entriesBefore_of_append hq hsplit, entriesBefore_of_append hs.coupled.queues hbefore]
    rfl

/-- Memory may change only where no performed load behind the head has read. -/
theorem retiredHead_tracked (h : Tracked pc z s) (hc : e.complete = true) (hf : e.fault = false)
    (hmem : ∀ l q, lsqAt (retiredHead e m b rr n s) l = some q → Performed s q → m.read q.addr.toNat = memRead s q.addr) :
    Tracked (predNext e) (e.zsrcAfter z) (retiredHead e m b rr n s) := by
  have hlsq : usesLsq e.opcode = true → ∃ q, lsqAt s s.lsqHead = some q := fun hu =>
    (exists_lsqHead hs he hu).imp fun _ hq => hq.1
  have hR := robInOrder_retiredHead (m := m) (b := b) (rr := rr) (n := n) hs.coupled he
  have ht : Coupled (retiredHead e m b rr n s) := retiredHead_coupled hs.coupled he hlsq hs.shape hc hf
  have hk := fun {r x} => keepsSlot_retiredHead (z := z) (m := m) (b := b) (rr := rr) (n := n) hs he (r := r) (x := x)
  have hlink : ∀ {r o pd}, robLink (retiredHead e m b rr n s) o r pd = true →
      KeepsSlot z (e.zsrcAfter z) s (retiredHead e m b rr n s) r := fun hl => by
    obtain ⟨x, hx, -⟩ := robLink_iff.1 hl
    exact hk hx
  have hv : KeepsValues s (retiredHead e m b rr n s) := fun _ _ _ hw => hw
  have hpath := h.path
  rw [hR] at hpath
  refine {
    queues := ht.queues
    committed := ?committed
    zsrc := h.zsrc.trans (by rw [hR]; rfl)
    bis := ?bis
    path := hpath.2
    latch := h.latch
    rob := fun r x hx => ?rob
    iq := fun x hx => (h.iq x hx).of_keeps (hlink (ht.iq x hx).rob)
    unit := fun c op hop => ?unit
    lsq := fun l q hl => ?lsq
    loads := fun l q hl => ?loads
    order := h.order.sublist (lsqInOrder_retiredHead hs he).sublist }
  case committed =>
    change ∀ p, e.zsrcAfter z = some p → p ∈ e.mapAfter s.rrat
    obtain ⟨-, -, -, hlen, -⟩ := hs.shape
    obtain ⟨hpd, -, hrd⟩ := head_entries hs.coupled he
    cases hp : e.pd with
    | none =>
      rw [zsrcAfter_of_noDest hp, mapAfter_of_noDest hp]
      exact h.committed
    | some p =>
      rw [zsrcAfter_of_dest hp, mapAfter_of_dest hp]
      intro p' hp'
      obtain rfl := Option.some.inj hp'
      exact List.mem_set (hlen ▸ hrd (by rw [← hpd, hp]; rfl)) p
  case bis =>
    intro ck hck
    obtain ⟨-, -, -, -, -, hbranches, -⟩ := ht.rename
    obtain ⟨x, hx, hrob⟩ := List.mem_map.1 (hbranches ▸ List.mem_map_of_mem (f := Checkpoint.rob) hck)
    have hx := (mem_robInOrder ht.queues).1 (List.mem_filter.1 hx).1
    have hold : ck ∈ s.bis := by
      change ck ∈ if isBranch e.opcode then s.bis.tail else s.bis at hck
      split at hck
      · exact List.mem_of_mem_tail hck
      · exact hck
    exact (h.bis ck hold).trans (hk (hrob ▸ hx)).zsrc.symm
  case rob =>
    obtain ⟨-, hold⟩ := (robAt_retiredHead he).1 hx
    exact (h.rob r x hold).of_keeps (hk hx) hv (fun _ => rfl) fun p hp => mem_owned_of_dest h.queues hold hp
  case unit => exact (h.unit c op (by cases c <;> exact hop)).of_keeps (hlink (ht.unit c op hop).rob) hv
  case lsq =>
    obtain ⟨x, hx, -⟩ := ht.order.owner ht.queues hl
    exact (h.lsq l q ((lsqAt_retiredHead hs.coupled he hlsq).1 hl).2).of_keeps (hk hx) hv
  case loads =>
    intro hperf p hp
    rw [memRead, show (retiredHead e m b rr n s).dmem = m from rfl, hmem l q hl hperf]
    exact h.loads l q ((lsqAt_retiredHead hs.coupled he hlsq).1 hl).2 hperf p hp

/-- The store at the head writes where no performed load behind it has read (R286). -/
theorem read_of_performed (h : Tracked pc z s) {r r' : RefState} (hdmem : s.dmem = r.dmem) (hcom : Commits s e r r') {l : Nat}
    {q : LsqEntry} (hl : lsqAt (retiredHead e m b rr n s) l = some q) (hperf : Performed s q) :
    r'.dmem.read q.addr.toNat = memRead s q.addr := by
  cases hst : isStoreOp e.opcode with
  | false => rw [hcom.noStore hst, memRead, hdmem]
  | true =>
    have hu : usesLsq e.opcode = true := by
      cases hu : usesLsq e.opcode with
      | true => rfl
      | false => exact nomatch hst.symm.trans (isStoreOp_of_not_usesLsq hu)
    obtain ⟨q₀, hq₀, hr₀⟩ := exists_lsqHead hs he hu
    have hlsq : usesLsq e.opcode = true → ∃ q, lsqAt s s.lsqHead = some q := fun _ => ⟨q₀, hq₀⟩
    obtain ⟨hne, hold⟩ := (lsqAt_retiredHead hs.coupled he hlsq).1 hl
    have hpop : lsqInOrder s = (s.lsqHead, q₀) :: _ := ringEntries_pop hs.coupled.queues.lsq hq₀
    have horder := h.order
    have hmem : (l, q) ∈ lsqInOrder s := (mem_lsqInOrder h.queues).2 hold
    rw [LoadOrder, hpop, List.pairwise_cons] at horder
    rw [hpop, List.mem_cons] at hmem
    have hpass := horder.1 (l, q) (hmem.resolve_left fun heq => by cases heq; exact hne hr₀) hperf
    obtain ⟨hstore, -⟩ := lsqAgrees_iff.1 ((hs.coupled.instr _ e he List.not_mem_nil).lsq _ q₀ hq₀ hr₀)
    have haddr : q₀.addr ≠ q.addr := by
      rw [passes, hstore, hst] at hpass
      simp at hpass
      exact hpass.2
    rw [hcom.store hst q₀ hq₀, Memory.read_write_of_ne _ fun heq => haddr (BitVec.eq_of_toNat_eq heq), memRead, hdmem]

/-! ### What the engine shows -/

/-- The retirement makes the committed registers, the zero condition and memory those of the reference interpreter's next state. -/
theorem shows_retiredHead {r r' : RefState} (hr : Shows z s r) (hcom : Commits s e r r') :
    Shows (e.zsrcAfter z) (retiredHead e r'.dmem b rr n s) r' := by
  obtain ⟨-, -, -, hlen, -⟩ := hs.shape
  obtain ⟨hpd, -, hrd⟩ := head_entries hs.coupled he
  have hhalted : (s.halted || decide (e.opcode = .halt)) = r'.halted := by rw [hcom.halted, hr.halted]
  cases hp : e.pd with
  | none =>
    obtain ⟨hx, hz⟩ := hcom.noDest hp
    rw [zsrcAfter_of_noDest hp]
    have hrrat : (retiredHead e r'.dmem b rr n s).rrat = s.rrat := mapAfter_of_noDest hp _
    refine ⟨?_, rfl, hhalted, hcom.error.trans hr.error, hz ▸ hr.zeroNone, hz ▸ hr.zero⟩
    rw [hx, ← hr.registers]
    exact List.map_congr_left fun i _ => by rw [readReg, readReg, hrrat]; rfl
  | some p =>
    obtain ⟨v, hv, hx, hz⟩ := hcom.dest p hp
    have hlt : e.rd < s.rrat.length := hlen ▸ hrd (by rw [← hpd, hp]; rfl)
    rw [zsrcAfter_of_dest hp]
    have hrrat : (retiredHead e r'.dmem b rr n s).rrat = s.rrat.set e.rd p := mapAfter_of_dest hp _
    refine ⟨?_, rfl, hhalted, hcom.error.trans hr.error, nofun, ?_⟩
    · rw [hx, ← hr.registers]
      refine List.ext_getElem (by simp [registers, retiredHead]) fun i _ _ => ?_
      by_cases hi : i = e.rd
      · subst hi
        have hread : readReg (retiredHead e r'.dmem b rr n s) e.rd = v :=
          readReg_of_holds (hrrat ▸ List.getElem?_set_self hlt) hv
        simp [registers, hread]
      · have hread : readReg (retiredHead e r'.dmem b rr n s) i = readReg s i := by
          rw [readReg, readReg, hrrat, List.getElem?_set_ne (Ne.symm hi)]
          rfl
        simp [registers, Ne.symm hi, hread]
    · intro p' w hp' hw
      obtain rfl := Option.some.inj hp'
      rw [hz, show v = w from congrArg PhysReg.value (Option.some.inj (hv.symm.trans hw))]

end

end Sys2Proof.Machine

/-! ## The engine in step with the reference interpreter

SUPPORT. Between two ticks the engine shows the reference interpreter's state after as many instructions as have committed; commit takes
it one instruction on, the other stages change nothing that shows, and a flush starts over where the interpreter stands (R220, R263,
R327, R328, R340, R364). -/

namespace Sys2Proof.Machine

/-! ### What does not change what is shown -/

theorem Shows.of_keeps {z : Option Nat} {s t : State} {r : RefState} (h : Shows z s r) (hcfg : t.cfg = s.cfg)
    (hrrat : t.rrat = s.rrat) (hdmem : t.dmem = s.dmem) (hhalted : t.halted = s.halted) (hk : KeepsRegisters s t)
    (hz : ∀ p, z = some p → p ∈ s.rrat) : Shows z t r where
  registers := by
    refine Eq.trans ?_ h.registers
    rw [Machine.registers, Machine.registers, hcfg]
    exact List.map_congr_left fun i _ => readReg_of_keepsRegisters hrrat hk i
  dmem := hdmem.trans h.dmem
  halted := hhalted.trans h.halted
  error := h.error
  zeroNone := h.zeroNone
  zero p v hp hv := h.zero p v hp ((hk p (hz p hp)).symm.trans hv)

/-- With nothing in flight the front end goes on where the engine's pc is (R47 (d)). -/
theorem tracked_of_empty {s : State} (hs : EngineInv s) (h0 : s.robCount = 0) (hd : s.dr = none) : Tracked s.pc s.zsrc s := by
  obtain ⟨-, -, hrob, hlsq, hiq, hint, hmul, hbr, hmem, hbis⟩ := nothingInFlight_of_robCount_eq_zero hs h0
  have hR := robInOrder_eq_nil h0
  obtain ⟨-, -, -, -, -, -, z, hz, hzsrc, -⟩ := hs.coupled.rename
  replace hzsrc : s.zsrc = z := by rw [hzsrc, hR]; rfl
  have hslots : ∀ r e, robAt s r ≠ some e := fun r e he => nomatch hrob _ (List.mem_of_getElem? (Option.join_eq_some_iff.1 he))
  have hqueue : ∀ l q, lsqAt s l ≠ some q := fun l q hl => nomatch hlsq _ (List.mem_of_getElem? (Option.join_eq_some_iff.1 hl))
  have hL : lsqInOrder s = [] := List.eq_nil_iff_forall_not_mem.2 fun x hx => hqueue _ _ ((mem_lsqInOrder hs.coupled.queues).1 hx)
  exact {
    queues := hs.coupled.queues
    committed := fun p hp => by
      rw [← hzsrc, hp] at hz
      simpa using hz
    zsrc := by rw [hR]; rfl
    bis := by simp [hbis]
    path := by rw [hR, frontPc, hd]; rfl
    latch := fun d hd' => nomatch hd.symm.trans hd'
    rob := fun r e he => absurd he (hslots r e)
    iq := fun x hx => nomatch hiq _ (mem_iqEntries.1 hx)
    unit := fun c op hop => by
      cases c with
      | int => exact nomatch hint _ hop
      | mul => exact nomatch hmul _ hop
      | br => exact nomatch hbr _ hop
      | mem => exact nomatch hmem _ hop
    lsq := fun l q hl => absurd hl (hqueue l q)
    loads := fun l q hl => absurd hl (hqueue l q)
    order := by rw [LoadOrder, hL]; exact .nil }

/-! ### Following -/

/-- The engine is in step with the reference interpreter: what is in flight goes on from its state, which the engine shows, and an error
raised is that of its next step (R340). -/
structure Follows (s : State) (r : RefState) : Prop where
  inv : EngineInv s
  flight : ∃ z, Tracked r.pc z s ∧ Shows z s r
  raised : ∀ e, s.error = some e → ∃ r', Ref.step? s.cfg s.prog r = some r' ∧ r'.error = some e

/-- From `s` to `t` the engine commits as many instructions as the reference interpreter performs from `r` to `r'`. -/
structure Advances (s : State) (r : RefState) (t : State) (r' : RefState) : Prop where
  cfg : t.cfg = s.cfg
  prog : t.prog = s.prog
  count : ∃ k, t.committed = s.committed + k ∧ Ref.after s.cfg s.prog k r = some r'

theorem Ref.after_add (c : Params) (prog : List Instr) (j k : Nat) (r : RefState) :
    Ref.after c prog (j + k) r = (Ref.after c prog j r).bind (Ref.after c prog k) := by
  induction j generalizing r with
  | zero => rw [Nat.zero_add]; rfl
  | succ j ih =>
    rw [Nat.succ_add, Ref.after, Ref.after, Option.bind_assoc]
    exact congrArg _ (funext ih)

theorem Advances.of_keeps {s t : State} (r : RefState) (hk : KeepsCommitted s t) : Advances s r t r :=
  ⟨hk.cfg, hk.prog, 0, hk.committed, rfl⟩

theorem Advances.trans {s t u : State} {r r' r'' : RefState} (h : Advances s r t r') (h' : Advances t r' u r'') : Advances s r u r'' := by
  obtain ⟨hcfg, hprog, j, hj, hr⟩ := h
  obtain ⟨hcfg', hprog', k, hk, hr'⟩ := h'
  refine ⟨hcfg'.trans hcfg, hprog'.trans hprog, j + k, by rw [hk, hj, Nat.add_assoc], ?_⟩
  rw [hcfg, hprog] at hr'
  rw [Ref.after_add, hr]
  exact hr'

/-! ### Commit -/

/-- A branch whose prediction holds goes on where it was predicted to (R254). -/
theorem predNext_eq_actNext {e : RobEntry} (h : (isBranch e.opcode && mispredict e) = false) : predNext e = actNext e := by
  rw [predNext, actNext, branchNext]
  cases hb : isBranch e.opcode with
  | false => rfl
  | true =>
    rw [hb] at h
    cases hp : e.predTaken <;> cases ha : e.actTaken <;> simp_all [mispredict]

/-- A flush starts over from the retirement map where the reference interpreter stands (R328, R341). -/
theorem flush_follows {ck : Checkpoint} {s t : State} {r : RefState} (ht : EngineInv t) (h : flush ck r.pc s = .next t)
    (hr : Shows ck.zsrc s r) (hz : ∀ p, ck.zsrc = some p → p ∈ s.rrat) (herr : s.error = none) : Follows t r := by
  have hstate := flush_eq_next h
  have hempty : Tracked t.pc t.zsrc t := tracked_of_empty ht (by rw [hstate]; rfl) (by rw [hstate]; rfl)
  have hpc : t.pc = r.pc := by rw [hstate]; rfl
  have hzsrc : t.zsrc = ck.zsrc := by rw [hstate]; rfl
  have hraised : t.error = none := by rw [hstate]; exact herr
  rw [hpc, hzsrc] at hempty
  refine ⟨ht, ⟨ck.zsrc, hempty, hr.of_keeps ?_ ?_ ?_ ?_ (fun p _ => ?_) hz⟩, fun e he => nomatch hraised.symm.trans he⟩ <;>
    rw [hstate] <;> rfl

section
variable {z : Option Nat} {s t : State} {r : RefState} (hs : EngineInv s) (h : Tracked r.pc z s) (hr : Shows z s r) {e : RobEntry}
  (he : robAt s s.robHead = some e)
include hs he

/-- The memory part of a retirement makes memory that of the reference interpreter's next state (R324). -/
theorem commitMem_dmem {a b : State} {r' : RefState} (hdmem : s.dmem = r.dmem) (hcom : Commits s e r r')
    (ha : commitDest e s = .next a) (hb : commitMem e a = .next b) : b.dmem = r'.dmem := by
  obtain ⟨hpd, hprev, -⟩ := head_entries hs.coupled he
  rw [commitDest_eq hpd hprev ha] at hb
  obtain ⟨hu, rfl⟩ | ⟨q, -, hq, ⟨hst, rfl⟩ | ⟨hst, -, rfl⟩⟩ := commitMem_eq_next hb
  · exact hdmem.trans (hcom.noStore (isStoreOp_of_not_usesLsq hu)).symm
  · exact hdmem.trans (hcom.noStore hst).symm
  · exact (congrArg (fun m => Memory.write m _ _) hdmem).trans (hcom.store hst q hq).symm

include h hr

/-- A retirement takes the engine to the reference interpreter's next state (R323 to R328). -/
theorem retire_follows (hc : e.complete = true) (hf : e.fault = false) (hh : s.halted = false) (herr : s.error = none)
    (hret : retire e s = .next t) (ht : EngineInv t) : ∃ r', Advances s r t r' ∧ Follows t r' := by
  obtain ⟨r', hstep, hcom⟩ := step?_of_head hs h hr he hc hf hh
  obtain ⟨hkeeps, hcount, -⟩ := retire_effect hret
  obtain ⟨hpd, hprev, -⟩ := head_entries hs.coupled he
  obtain ⟨a, b, ha, hb, hend⟩ := retire_eq_next hret
  have hstate := commitHead_eq hpd hprev ha hb
  rw [commitMem_dmem hs he hr.dmem hcom ha hb] at hstate
  have htracked := retiredHead_tracked (b := (commitBranch e b).btb) (rr := (commitBranch e b).btbRr)
    (n := (commitBranch e b).victimDraws) hs he h hc hf fun l q hl hperf => read_of_performed hs he h hr.dmem hcom hl hperf
  have hshows := shows_retiredHead (b := (commitBranch e b).btb) (rr := (commitBranch e b).btbRr)
    (n := (commitBranch e b).victimDraws) hs he hr hcom
  have hmis : e.mispredicted = (isBranch e.opcode && mispredict e) := by
    simpa [hc] using (hs.coupled.instr _ e he List.not_mem_nil).branch
  refine ⟨r', ⟨hkeeps.cfg, hkeeps.prog, 1, hcount, by rw [Ref.after, hstep]; rfl⟩, ?_⟩
  have hcorrect : e.mispredicted = false → t = commitHead e (commitBranch e b) → Follows t r' := fun hm heq => by
    rw [predNext_eq_actNext (hmis.symm.trans hm), ← hcom.pc] at htracked
    rw [heq.trans hstate] at ht ⊢
    exact ⟨ht, ⟨_, htracked, hshows⟩, fun _ hraised => nomatch herr.symm.trans hraised⟩
  obtain ⟨hbr, heq⟩ | ⟨ck, hbr, hck, ⟨hm, heq⟩ | ⟨-, hfl⟩⟩ := hend
  · refine hcorrect (by rw [hmis, hbr]; rfl) ?_
    rwa [commitBranch, hbr, if_neg nofun]
  · exact hcorrect hm heq
  · have hnone := hs.coupled.pd_eq_none he (hasDest_of_isBranch hbr)
    have hzck : ck.zsrc = z := by
      obtain ⟨l, hl, hrob⟩ := bisOldest_eq_some hck
      rw [commitMem_eq hb, commitDest_eq hpd hprev ha] at hl
      rw [h.bis ck (hl ▸ List.mem_cons_self), hrob, zsrcBefore, entriesBefore_head]
      rfl
    rw [zsrcAfter_of_noDest hnone, ← hzck] at hshows
    rw [hstate, ← show r'.pc = _ from hcom.pc.trans (if_pos hbr)] at hfl
    refine flush_follows ht hfl hshows (fun p hp => ?_) herr
    change p ∈ e.mapAfter s.rrat
    rw [mapAfter_of_noDest hnone]
    exact h.committed p (hzck ▸ hp)

end

/-- Commit leaves the engine in step, one instruction on if it retires one (R320 to R322, R340). -/
theorem commit_follows {s t : State} {r : RefState} (h : Follows s r) (hh : s.halted = false) (herr : s.error = none)
    (ht : commit s = .next t) : ∃ r', Advances s r t r' ∧ Follows t r' := by
  obtain ⟨hs, ⟨z, htracked, hshows⟩, -⟩ := id h
  obtain ⟨rfl, -⟩ | ⟨e, -, he, hc, ⟨hf, rfl⟩ | ⟨hf, hret⟩⟩ := commit_eq_next ht
  · exact ⟨r, .of_keeps r (.refl t), h⟩
  · obtain ⟨r', hstep, hraised⟩ := step?_of_faultingHead hs htracked hshows he hc hf hh
    refine ⟨r, ⟨rfl, rfl, 0, rfl, rfl⟩, hs, ⟨z, htracked.withFront s.pc _ s.dr _ _ _ rfl htracked.latch, ?_⟩, fun e' he' => ?_⟩
    · exact hshows.of_keeps rfl rfl rfl rfl (fun _ _ => rfl) htracked.committed
    · obtain rfl := Option.some.inj he'
      exact ⟨r', hstep, hraised⟩
  · exact retire_follows hs htracked hshows he hc hf hh herr hret (commit_engineInv hs ht)

/-! ### The other stages, the tick, the run -/

/-- No stage after commit changes anything that shows (R364). -/
theorem stages_follows {s t u : State} {r : RefState} (h : Follows s r) (hb : beforeFetch s = .next t) (hf : fetch t = .next u) :
    Advances s r u r ∧ Follows u r := by
  obtain ⟨hs, ⟨z, htracked, hshows⟩, hraised⟩ := h
  have hk := stages_keepCommitted hb hf
  obtain ⟨hu, hutracked⟩ := stages_keep (P := fun a => EngineInv a ∧ Tracked r.pc z a)
    (fun ⟨hi, hp⟩ h => ⟨lsqLoadAccess_engineInv hi h, lsqLoadAccess_tracked hi hp h⟩)
    (fun ⟨hi, hp⟩ h => ⟨evalUnit_engineInv hi h, evalUnit_tracked hi hp h⟩)
    (fun ⟨hi, hp⟩ h => ⟨issueClass_engineInv hi h, issueClass_tracked hi hp h⟩)
    (fun ⟨hi, hp⟩ h => ⟨dispatch_engineInv hi h, dispatch_tracked hi hp h⟩)
    (fun ⟨hi, hp⟩ h => ⟨fetch_engineInv hi h, fetch_tracked hp h⟩) ⟨hs, htracked⟩ hb hf
  have hushows := hshows.of_keeps hk.cfg hk.rrat hk.dmem hk.halted (stages_keepRegisters hs hb hf) htracked.committed
  refine ⟨.of_keeps r hk, hu, ⟨z, hutracked, hushows⟩, fun e he => ?_⟩
  rw [hk.cfg, hk.prog]
  exact hraised e (hk.error.symm.trans he)

theorem bumpCycle_follows {s : State} {r : RefState} (h : Follows s r) : Follows (bumpCycle s) r := by
  obtain ⟨hs, ⟨z, htracked, hshows⟩, hraised⟩ := h
  refine ⟨hs, ⟨z, htracked.withFront s.pc _ s.dr _ _ _ rfl htracked.latch, ?_⟩, hraised⟩
  exact hshows.of_keeps rfl rfl rfl rfl (fun _ _ => rfl) htracked.committed

theorem step_follows {s t : State} {r : RefState} (h : Follows s r) (ht : step s = .next t) :
    ∃ r', Advances s r t r' ∧ Follows t r' := by
  obtain ⟨-, rfl⟩ | ⟨a, hd, hc, hend⟩ := tick_eq_next ht
  · exact ⟨r, .of_keeps r (.refl t), h⟩
  obtain ⟨hh, herr⟩ := halted_and_error_of_not_done hd
  obtain ⟨r', hadv, hfollows⟩ := commit_follows h hh herr hc
  obtain ⟨-, rfl⟩ | ⟨b, c, -, hb, hf, rfl⟩ := hend
  · exact ⟨r', ⟨hadv.cfg, hadv.prog, hadv.count⟩, bumpCycle_follows hfollows⟩
  · obtain ⟨hadv', hfollows'⟩ := stages_follows hfollows hb hf
    have hall := hadv.trans hadv'
    exact ⟨r', ⟨hall.cfg, hall.prog, hall.count⟩, bumpCycle_follows hfollows'⟩

theorem run_succ_eq_next {n : Nat} {s t : State} (h : Host.Core.run core (n + 1) s = .next t) :
    ∃ u, step s = .next u ∧ Host.Core.run core n u = .next t := by
  simp only [Host.Core.run] at h
  split at h
  · exact ⟨_, ‹_›, h⟩
  · cases h
  · cases h

theorem run_follows {n : Nat} {s t : State} {r : RefState} (h : Follows s r) (ht : Host.Core.run core n s = .next t) :
    ∃ r', Advances s r t r' ∧ Follows t r' := by
  induction n generalizing s r with
  | zero =>
    obtain rfl : s = t := Host.Outcome.next.inj ht
    exact ⟨r, .of_keeps r (.refl s), h⟩
  | succ n ih =>
    obtain ⟨u, hu, ht⟩ := run_succ_eq_next ht
    obtain ⟨r', hadv, hfollows⟩ := step_follows h hu
    obtain ⟨r'', hadv', hfollows'⟩ := ih hfollows ht
    exact ⟨r'', hadv.trans hadv', hfollows'⟩

/-! ### From reset on -/

section
variable {c : Params} {prog : List Instr} {initReg : List Word} {initMem : List (Nat × Word)} {btb : List (Option BtbEntry)} {rr : Nat}

theorem engineInv_primed (hc : c.Legal prog.length) (hprog : ∀ i ∈ prog, i.wellFormed c.numArch = true)
    (hmem : ∀ x ∈ initMem, x.1 < c.dataMemSize) (hlen : btb.length = c.btbSize)
    (hbtb : BtbOk (primed c prog initReg initMem btb rr)) : EngineInv (primed c prog initReg initMem btb rr) := by
  obtain ⟨hsetup, hshape, hrings, hmemOk, -, hrename, hflow, hlsq, hvalid, hbranch, hdr⟩ :=
    engineInv_initial initReg hc hprog (Memory.ofList_wf initMem) (Memory.ofList_bound hmem)
  obtain ⟨hprf, hfree, hrat, hrrat, hiq, hint, hmul, hbru, hmemu, hrob, hlsqlen, -, hbis⟩ := hshape
  exact ⟨hsetup, ⟨hprf, hfree, hrat, hrrat, hiq, hint, hmul, hbru, hmemu, hrob, hlsqlen, hlen, hbis⟩, hrings, hmemOk, hbtb, hrename,
    hflow, hlsq, hvalid, hbranch, hdr⟩

theorem registers_primed (hc : c.numArch < c.numPhys) :
    registers (primed c prog initReg initMem btb rr) = (Ref.init c initReg (Memory.ofList initMem)).x := by
  refine List.map_congr_left fun i hi => ?_
  have hi : i < c.numArch := List.mem_range.1 hi
  have hmap : (primed c prog initReg initMem btb rr).rrat[i]? = some i := List.getElem?_range hi
  refine readReg_of_holds hmap ((State.initial_prf c prog initReg (Memory.ofList initMem) (hi.trans hc)).trans ?_)
  rw [if_pos hi]

/-- The reset machine shows the reference interpreter's initial state, whatever the BTB holds (R46, R220, R411). -/
theorem follows_primed (hc : c.Legal prog.length) (hprog : ∀ i ∈ prog, i.wellFormed c.numArch = true)
    (hmem : ∀ x ∈ initMem, x.1 < c.dataMemSize) (hlen : btb.length = c.btbSize)
    (hbtb : BtbOk (primed c prog initReg initMem btb rr)) :
    Follows (primed c prog initReg initMem btb rr) (Ref.init c initReg (Memory.ofList initMem)) := by
  have hinv := engineInv_primed (initReg := initReg) hc hprog hmem hlen hbtb
  obtain ⟨hphys, -⟩ := hc
  exact ⟨hinv, ⟨none, tracked_of_empty hinv rfl rfl, registers_primed hphys, rfl, rfl, rfl, fun _ => rfl, nofun⟩, nofun⟩

end

/-! ### How a run has ended -/

section
variable {s : State} {r : RefState} (h : Follows s r)
include h

/-- A drained engine stands where the reference interpreter has no instruction (R346, R347). -/
theorem Follows.step?_of_drained (hd : drained s = true) : Ref.step? s.cfg s.prog r = none := by
  obtain ⟨z, htracked, -⟩ := h.flight
  simp only [drained, Bool.and_eq_true, decide_eq_true_eq, Option.isNone_iff_eq_none, Bool.not_eq_true'] at hd
  obtain ⟨⟨⟨h0, hdr⟩, -⟩, hout⟩ := hd
  have hpc : r.pc = s.pc := by
    have hpath := htracked.path
    rwa [robInOrder_eq_nil h0, frontPc, hdr] at hpath
  have hnone : Ref.fetchAt s.cfg s.prog r.pc = none := by
    rw [← instrAt_eq_fetchAt, hpc, instrAt_of_not_inRange hout]
  rw [Ref.step?, hnone]
  exact ite_self _

theorem Follows.architecturalState_eq : architecturalState s = { registers := r.x, memory := r.dmem } := by
  obtain ⟨z, -, hshows⟩ := h.flight
  rw [architecturalState, hshows.registers, hshows.dmem]

end

end Sys2Proof.Machine

/-! ## Prediction is invisible

SUPPORT. The reference interpreter knows no prediction and no cycle budget, and it is deterministic, so what two engines in step with it
show is the same (R220, R263). -/

namespace Sys2Proof.Machine

/-- After any number of ticks from reset the engine is in step with the interpreter after as many instructions as have committed
(R340). -/
theorem follows_of_run {c : Params} {prog : List Instr} {initReg : List Word} {initMem : List (Nat × Word)}
    {btb : List (Option BtbEntry)} {rr n : Nat} {s : State} (hc : c.Legal prog.length)
    (hprog : ∀ i ∈ prog, i.wellFormed c.numArch = true) (hmem : ∀ x ∈ initMem, x.1 < c.dataMemSize) (hlen : btb.length = c.btbSize)
    (hbtb : BtbOk (primed c prog initReg initMem btb rr))
    (hrun : Host.Core.run core n (primed c prog initReg initMem btb rr) = .next s) :
    s.cfg = c ∧ s.prog = prog ∧
      ∃ r, Ref.after c prog s.committed (Ref.init c initReg (Memory.ofList initMem)) = some r ∧ Follows s r := by
  obtain ⟨r, ⟨hcfg, hprog, k, hk, hr⟩, hf⟩ := run_follows (follows_primed hc hprog hmem hlen hbtb) hrun
  have hcommitted : s.committed = k := hk.trans (Nat.zero_add k)
  exact ⟨hcfg, hprog, r, hcommitted ▸ hr, hf⟩

/-! ### The end of the reference interpreter's run -/

/-- How a run of the interpreter that stands at `r` ends there; `budget` where it goes on. -/
def refOutcome (c : Params) (prog : List Instr) (r : RefState) : RunOutcome :=
  match Ref.step? c prog r with
  | some r' => r'.error.elim .budget .fault
  | none => if r.halted then .halted else .drained

/-- An engine that has ended by its program has ended as the interpreter does (R343, R371). -/
theorem Follows.runOutcome_eq {s : State} {r : RefState} (h : Follows s r) (hend : runOutcome s ≠ .budget) :
    runOutcome s = refOutcome s.cfg s.prog r := by
  obtain ⟨z, -, hshows⟩ := h.flight
  unfold runOutcome at hend ⊢
  cases herr : s.error with
  | some e =>
    obtain ⟨r', hstep, hraised⟩ := h.raised e herr
    rw [refOutcome, hstep]
    simp [hraised]
  | none =>
    cases hh : s.halted with
    | true =>
      have hhalted : r.halted = true := hshows.halted.symm.trans hh
      simp [refOutcome, Ref.step?, hhalted]
    | false =>
      have hhalted : r.halted = false := hshows.halted.symm.trans hh
      cases hd : drained s with
      | true => simp [refOutcome, h.step?_of_drained hd, hhalted]
      | false => simp [herr, hh, hd] at hend

/-- Where the interpreter's run ends no instruction follows but one that raises the error. -/
theorem error_of_after_end {c : Params} {prog : List Instr} {r r' : RefState} {k : Nat} (hend : refOutcome c prog r ≠ .budget)
    (h : Ref.after c prog (k + 1) r = some r') : r'.error ≠ none := by
  obtain ⟨r₁, hstep, hafter⟩ := Option.bind_eq_some_iff.1 h
  have herr : r₁.error ≠ none := fun hno => by
    rw [refOutcome, hstep] at hend
    simp [hno] at hend
  cases k with
  | zero =>
    obtain rfl := Option.some.inj hafter
    exact herr
  | succ k =>
    obtain ⟨r₂, hstep', -⟩ := Option.bind_eq_some_iff.1 hafter
    obtain ⟨e, he⟩ := Option.ne_none_iff_exists'.1 herr
    simp [Ref.step?, he] at hstep'

/-- An engine in step with the interpreter has committed no more than the interpreter performs. -/
theorem committed_le_of_end {c : Params} {prog : List Instr} {r₀ r r' : RefState} {j k : Nat} (hr : Ref.after c prog j r₀ = some r)
    (hend : refOutcome c prog r ≠ .budget) (hr' : Ref.after c prog k r₀ = some r') (herr : r'.error = none) : k ≤ j := by
  refine Nat.le_of_not_lt fun hlt => ?_
  obtain ⟨d, rfl⟩ := Nat.exists_eq_add_of_lt hlt
  rw [Nat.add_assoc, Ref.after_add, hr] at hr'
  exact error_of_after_end hend hr' herr

/-! ### Parameters that the interpreter does not see -/

section
variable {c c' : Params} (h : c' = { c with btbSize := c'.btbSize, btbVictim := c'.btbVictim, cycleBudget := c'.cycleBudget })
include h

theorem step?_congr (prog : List Instr) : Ref.step? c' prog = Ref.step? c prog := by
  rw [h]
  rfl

theorem after_congr (prog : List Instr) (k : Nat) : Ref.after c' prog k = Ref.after c prog k := by
  induction k with
  | zero => rfl
  | succ k ih =>
    funext r
    rw [Ref.after, Ref.after, step?_congr h, ih]

theorem refOutcome_congr (prog : List Instr) : refOutcome c' prog = refOutcome c prog := by
  funext r
  rw [refOutcome, refOutcome, step?_congr h]

end

end Sys2Proof.Machine

section
open Sys2Proof Sys2Proof.Machine

/-- Settles O60: both engines are in step with one reference interpreter (`Follows`), which is deterministic and does not see the BTB,
its policy and the budget; an engine that has ended by its program stands where the interpreter ends. -/
theorem predictionInvisible : Obligations.PredictionInvisible := by
  intro c c' prog initReg initMem btb btb' rr rr' n m s t hc hc' hprog hmem hsame hlen hbtb hlen' hbtb' hrun hrun'
  have harch : c'.numArch = c.numArch := by rw [hsame]
  have hsize : c'.dataMemSize = c.dataMemSize := by rw [hsame]
  have hinit : ∀ m, Ref.init c' initReg m = Ref.init c initReg m := fun m => by rw [hsame]; rfl
  obtain ⟨hcfg, hp, r, hr, hf⟩ := follows_of_run hc hprog hmem hlen hbtb hrun
  obtain ⟨hcfg', hp', r', hr', hf'⟩ := follows_of_run hc' (harch ▸ hprog) (hsize ▸ hmem) hlen' hbtb' hrun'
  rw [after_congr hsame, hinit] at hr'
  have harchState : s.committed = t.committed → r = r' := fun heq => Option.some.inj (hr.symm.trans (heq ▸ hr'))
  refine ⟨fun heq => ?_, fun hs ht => ?_⟩
  · rw [hf.architecturalState_eq, hf'.architecturalState_eq, harchState heq]
  · have hout := hf.runOutcome_eq hs
    have hout' := hf'.runOutcome_eq ht
    rw [hcfg, hp] at hout
    rw [hcfg', hp', refOutcome_congr hsame] at hout'
    obtain ⟨z, -, hshows⟩ := hf.flight
    obtain ⟨z', -, hshows'⟩ := hf'.flight
    have heq : s.committed = t.committed :=
      Nat.le_antisymm (committed_le_of_end hr' (hout' ▸ ht) hr hshows.error) (committed_le_of_end hr (hout ▸ hs) hr' hshows'.error)
    obtain rfl := harchState heq
    exact ⟨heq, hout.trans hout'.symm, hf.architecturalState_eq.trans hf'.architecturalState_eq.symm⟩

end

/-! ## Memory operations

SUPPORT. The meanings of loads and stores in range (R280 to R283), the memory unit (R284, R290) and the choice of the load that is
performed (R286, R287). -/

namespace Sys2Proof.Machine

/-! ### Loads and stores in range -/

/-- A load in range is `writeBack` of the word read (R280, R281). -/
theorem loadFrom_writesDest {i : Instr} {s : State} {rd : Nat} {a : Word} (hwf : i.wellFormed s.cfg.numArch = true)
    (hb : AtBoundary s) (hrd : rd < s.cfg.numArch) (ha : a.toNat < s.cfg.dataMemSize) :
    ∃ t, ifWellFormed i s (loadFrom rd a s) = .next t ∧ WritesDest rd (s.dmem.read a.toNat) s t := by
  rw [loadFrom_of_inData ha]
  exact ifWellFormed_writesDest hwf hb hrd _

/-- A store in range writes its word; beside that it only retires (R282, R283). -/
theorem storeTo_writesWord {i : Instr} {s : State} {a : Word} (hwf : i.wellFormed s.cfg.numArch = true)
    (hm : s.dmem.wf = true) (ha : a.toNat < s.cfg.dataMemSize) (v : Word) :
    ∃ t, ifWellFormed i s (storeTo a v s) = .next t ∧ WritesWord a v s t := by
  refine ⟨_, (ifWellFormed_of hwf).trans (storeTo_of_inData ha v), ?_⟩
  have hrenaming : SameRenaming s s := by and_intros <;> rfl
  exact ⟨Memory.read_write_same _ v hm, fun b hb => Memory.read_write_of_ne v hb.symm, Memory.write_wf _ v hm, rfl, rfl,
    hrenaming, .refl s, ⟨rfl, rfl, rfl⟩, rfl, rfl⟩

/-! ### The memory unit -/

section
variable {s : State} {op : UnitLatch} {l : Nat} {q : LsqEntry} {e : RobEntry} {a : Word}
  (haddr : memAddress op = some a) (hl : op.lsq = some l) (hq : lsqAt s l = some q)
include haddr hl hq

/-- The last stage runs on the LSQ entry its operation names, with the address of the opcode (R284). -/
theorem memLast_of_entry : memLast op s =
    if inData s a then
      if q.isStore then robComplete op.rob { s with lsq := s.lsq.set l (some (q.addressed a (op.val 1))) }
      else .next { s with lsq := s.lsq.set l (some (q.addressed a (op.val 1))) }
    else robUpdate op.rob (RobEntry.faulted a)
      { s with lsq := s.lsq.set l (some (q.addressed a (op.val 1)).finished) } := by
  simp only [memLast, haddr, memRecord, hl, hq, UnitLatch.val]

/-- A load in range records its address and waits for its access (R284). -/
theorem memLast_of_load (ha : inData s a = true) (hload : q.isStore = false) :
    memLast op s = .next { s with lsq := s.lsq.set l (some { q with addr := a, addrValid := true }) } := by
  rw [memLast_of_entry haddr hl hq, if_pos ha, if_neg (by simp [hload]), LsqEntry.addressed_of_load hload]

/-- A store in range records address and value and completes (R284). -/
theorem memLast_of_store (he : robAt s op.rob = some e) (ha : inData s a = true) (hst : q.isStore = true) :
    memLast op s = .next { s with
      lsq := s.lsq.set l (some { q with addr := a, addrValid := true, value := op.val 1, done := true })
      rob := s.rob.set op.rob (some e.completed) } := by
  rw [memLast_of_entry haddr hl hq, if_pos ha, if_pos hst, LsqEntry.addressed_of_store hst]
  exact robComplete_eq_next.2 ⟨e, he, rfl⟩

/-- An access out of range is done in the LSQ and leaves its fault in the ROB entry (R290). -/
theorem memLast_of_outOfRange (he : robAt s op.rob = some e) (ha : inData s a = false) :
    memLast op s = .next { s with
      lsq := s.lsq.set l (some (q.addressed a (op.val 1)).finished)
      rob := s.rob.set op.rob (some (e.faulted a)) } := by
  rw [memLast_of_entry haddr hl hq, ha]
  exact robUpdate_eq_next.2 ⟨e, he, rfl⟩

end

/-- What an access out of range leaves in the LSQ: a store has its value too (R284, R290). -/
theorem LsqEntry.finished_addressed (q : LsqEntry) (a v : Word) : (q.addressed a v).finished =
    { q with addr := a, addrValid := true, value := if q.isStore then v else q.value, done := true } := by
  cases h : q.isStore with
  | false => simp [addressed_of_load h, finished, h]
  | true => simp [addressed_of_store h, finished, h]

/-! ### The load that is performed -/

/-- The entry at position `k` of a queue, oldest first, is a load with a known address that is not done, and every store before it
has a known and different address (R286). -/
def EligibleAt (L : List (Nat × LsqEntry)) (k : Nat) : Prop :=
  ∃ x, L[k]? = some x ∧ x.2.isStore = false ∧ x.2.addrValid = true ∧ x.2.done = false ∧
    ∀ j < k, ∀ o, L[j]? = some o → o.2.isStore = true → o.2.addrValid = true ∧ o.2.addr ≠ x.2.addr

theorem passes_iff {a : Word} {o : LsqEntry} : passes a o = true ↔ (o.isStore = true → o.addrValid = true ∧ o.addr ≠ a) := by
  cases h : o.isStore <;> simp [passes, h]

/-- A property of the entries before position `k`, by position. -/
theorem all_take_iff {L : List (Nat × LsqEntry)} {k : Nat} {p : LsqEntry → Bool} :
    ((L.take k).map Prod.snd).all p = true ↔ ∀ j < k, ∀ o, L[j]? = some o → p o.2 = true := by
  rw [List.all_map, List.all_eq_true]
  constructor
  · exact fun h j hj o ho => h o (List.mem_iff_getElem?.2 ⟨j, (List.getElem?_take_of_lt hj).trans ho⟩)
  · intro h o ho
    obtain ⟨j, hj⟩ := List.mem_iff_getElem?.1 ho
    rw [List.getElem?_take, Option.ite_none_right_eq_some] at hj
    exact h j hj.1 o hj.2

/-- The position's condition is the model's check on the entries before it. -/
theorem eligible_iff_eligibleAt {L : List (Nat × LsqEntry)} {k : Nat} {x : Nat × LsqEntry} (hx : L[k]? = some x) :
    eligible ((L.take k).map Prod.snd) x.2 = true ↔ EligibleAt L k := by
  simp only [eligible, EligibleAt, hx, Option.some.injEq, exists_eq_left', Bool.and_eq_true, Bool.not_eq_true', all_take_iff,
    passes_iff, and_assoc]

/-- The search goes past entries that are not eligible. -/
theorem firstEligible_append {older : List LsqEntry} {xs ys : List (Nat × LsqEntry)}
    (h : ∀ j x, xs[j]? = some x → eligible (older ++ (xs.take j).map Prod.snd) x.2 = false) :
    firstEligible older (xs ++ ys) = firstEligible (older ++ xs.map Prod.snd) ys := by
  induction xs generalizing older with
  | nil => simp
  | cons x xs ih =>
    have hx : eligible older x.2 = false := by simpa using h 0 x rfl
    have hxs : ∀ j y, xs[j]? = some y → eligible (older ++ [x.2] ++ (xs.take j).map Prod.snd) y.2 = false := fun j y hy => by
      simpa using h (j + 1) y hy
    rw [List.cons_append, firstEligible, hx, if_neg Bool.false_ne_true, ih hxs, List.map_cons, List.append_assoc,
      List.singleton_append]

/-- The search goes past every position before which, and at which, no entry is eligible. -/
theorem firstEligible_skip {L : List (Nat × LsqEntry)} {k : Nat} (h : ∀ j < k, ¬ EligibleAt L j) :
    firstEligible [] L = firstEligible ((L.take k).map Prod.snd) (L.drop k) := by
  conv_lhs => rw [← List.take_append_drop k L]
  refine firstEligible_append fun j x hx => ?_
  rw [List.getElem?_take, Option.ite_none_right_eq_some] at hx
  obtain ⟨hj, hx⟩ := hx
  rw [List.nil_append, List.take_take, Nat.min_eq_left hj.le]
  exact Bool.eq_false_iff.2 fun hel => h j hj ((eligible_iff_eligibleAt hx).1 hel)

theorem firstEligible_eq_none {L : List (Nat × LsqEntry)} (h : ∀ k, ¬ EligibleAt L k) : firstEligible [] L = none := by
  rw [firstEligible_skip (k := L.length) fun j _ => h j, List.drop_length, firstEligible]

/-- The load that is performed is the oldest eligible one (R287). -/
theorem firstEligible_eq_oldest {L : List (Nat × LsqEntry)} {k : Nat} {x : Nat × LsqEntry} (hk : EligibleAt L k)
    (hold : ∀ j < k, ¬ EligibleAt L j) (hx : L[k]? = some x) : firstEligible [] L = some x := by
  obtain ⟨hlt, rfl⟩ := List.getElem?_eq_some_iff.1 hx
  rw [firstEligible_skip hold, List.drop_eq_getElem_cons hlt, firstEligible, if_pos ((eligible_iff_eligibleAt hx).2 hk)]

/-- The chosen load reads its word, delivers it and completes (R200, R201, R287). -/
theorem lsqLoadAccess_of_first {s : State} {l p : Nat} {q : LsqEntry} {e : RobEntry}
    (hfirst : firstEligible [] (lsqInOrder s) = some (l, q)) (hpd : q.pd = some p) (ha : inData s q.addr = true)
    (hready : prfReady s p = some false) (he : robAt s q.rob = some e) :
    lsqLoadAccess s = .next { s with
      prf := s.prf.set p ⟨memRead s q.addr, true⟩
      iq := s.iq.map (Option.map (IqEntry.wake p))
      lsq := s.lsq.set l (some q.finished)
      rob := s.rob.set q.rob (some e.completed) } := by
  simp only [lsqLoadAccess, hfirst, hpd, ha, if_true]
  exact seq_eq_next.2 ⟨_, broadcast_eq_next.2 ⟨hready, rfl⟩, robComplete_eq_next.2 ⟨e, he, rfl⟩⟩

end Sys2Proof.Machine

section
open Sys2Proof Sys2Proof.Machine

/-- Settles O12: a load in range ends in `writeBack` of the word read, which at a boundary has a register to take. -/
theorem loadResults : Obligations.LoadResults := by
  intro s rd rs1 rs2 imm hb hrd hrs1 hrs2 hlo hhi
  have hload : (Instr.load rd rs1 imm).wellFormed s.cfg.numArch = true := by simp [Instr.wellFormed, regOk, immOk, *]
  have hldr : (Instr.ldr rd rs1 rs2).wellFormed s.cfg.numArch = true := by simp [Instr.wellFormed, regOk, *]
  exact ⟨loadFrom_writesDest hload hb hrd, loadFrom_writesDest hldr hb hrd⟩

/-- Settles O13 by the laws of the memory: a read of the written index and of another one, and the canonical form. -/
theorem storeResults : Obligations.StoreResults := by
  intro s rs1 rs2 rs3 imm hm hrs1 hrs2 hrs3 hlo hhi
  have hstore : (Instr.store rs1 rs2 imm).wellFormed s.cfg.numArch = true := by simp [Instr.wellFormed, regOk, immOk, *]
  have hstr : (Instr.str rs1 rs2 rs3).wellFormed s.cfg.numArch = true := by simp [Instr.wellFormed, regOk, *]
  constructor
  · rintro _ rfl ha
    exact storeTo_writesWord hstore hm ha _
  · rintro _ rfl ha
    exact storeTo_writesWord hstr hm ha _

/-- Settles O39: the search passes every position that is not eligible and stops at the first that is. -/
theorem loadAccessDelivers : Obligations.LoadAccessDelivers := by
  refine fun s => ⟨fun hnone => ?_, fun k l x p e hk hold hx hpd ha hready he => ?_⟩
  · rw [lsqLoadAccess, firstEligible_eq_none hnone]
  · exact lsqLoadAccess_of_first (firstEligible_eq_oldest hk hold hx) hpd (decide_eq_true ha) hready he

/-- Settles O38: each opcode's address is what `memAddress` computes; then the cases are those of the range check and the kind of
entry. -/
theorem memoryUnitRecords : Obligations.MemoryUnitRecords := by
  intro s op l q e a hl hq he hop
  have haddr : memAddress op = some a := by
    obtain ⟨ho, rfl⟩ | ⟨ho, rfl⟩ | ⟨ho, rfl⟩ | ⟨ho, rfl⟩ := hop <;> rw [memAddress, ho] <;> rfl
  refine ⟨fun ha hload => ?load, fun ha hst => ?store, fun ha => ?outOfRange⟩
  case load => exact memLast_of_load haddr hl hq (decide_eq_true ha) hload
  case store => exact memLast_of_store haddr hl hq he (decide_eq_true ha) hst
  case outOfRange =>
    rw [← LsqEntry.finished_addressed]
    exact memLast_of_outOfRange haddr hl hq he (inData_of_outOfRange ha)

end

/-! ## What a commit leaves

SUPPORT. The whole state after the retirement of the head, a mispredicted branch's flush included (R323 to R328). -/

namespace Sys2Proof.Machine

/-- The data memory after the head entry `e` has retired: a store writes the LSQ head's word (R324). -/
def memoryAfter (e : RobEntry) (s : State) : Memory :=
  if isStoreOp e.opcode then (lsqAt s s.lsqHead).elim s.dmem fun q => s.dmem.write q.addr.toNat q.value else s.dmem

/-- The engine whose BTB has seen the head entry `e`: a branch trains it (R325). -/
def trainedBy (e : RobEntry) (s : State) : State :=
  if isBranch e.opcode then btbUpdate e.pc e.actTaken e.actTarget s else s

/-- The engine after the head entry `e` has retired, but for the flush of a mispredicted branch (R323 to R326). -/
def committedHead (e : RobEntry) (s : State) : State :=
  retiredHead e (memoryAfter e s) (trainedBy e s).btb (trainedBy e s).btbRr (trainedBy e s).victimDraws s

theorem usesLsq_of_isStoreOp {o : Opcode} (h : isStoreOp o = true) : usesLsq o = true := by
  by_contra hu
  simp [isStoreOp_of_not_usesLsq (Bool.eq_false_iff.2 hu)] at h

theorem isBranch_of_hasDest {o : Opcode} (h : hasDest o = true) : isBranch o = false :=
  Bool.eq_false_iff.2 fun hbr => by simp [hasDest_of_isBranch hbr] at h

/-- With an empty ROB only the committed registers are in use (R140). -/
theorem owned_of_empty {s : State} (h : s.robCount = 0) : owned s = s.rrat := by
  rw [owned_eq, robInOrder_eq_nil h]
  exact List.append_nil _

theorem memoryAfter_of_noStore {e : RobEntry} (h : isStoreOp e.opcode = false) (s : State) : memoryAfter e s = s.dmem := by
  simp [memoryAfter, h]

theorem memoryAfter_of_store {e : RobEntry} {s : State} {q : LsqEntry} (h : isStoreOp e.opcode = true)
    (hq : lsqAt s s.lsqHead = some q) : memoryAfter e s = s.dmem.write q.addr.toNat q.value := by
  simp [memoryAfter, h, hq]

theorem trainedBy_of_branch {e : RobEntry} (h : isBranch e.opcode = true) (s : State) :
    trainedBy e s = btbUpdate e.pc e.actTaken e.actTarget s := if_pos h

theorem trainedBy_of_noBranch {e : RobEntry} (h : isBranch e.opcode = false) (s : State) : trainedBy e s = s := by
  simp [trainedBy, h]

/-- The memory part writes what `memoryAfter` says, and a store finds its entry and its index: the destination's part has left the
LSQ and the memory alone (R323, R324). -/
theorem commitMem_writes {e : RobEntry} {s a b : State} (ha : commitDest e s = .next a) (hb : commitMem e a = .next b) :
    b.dmem = memoryAfter e s ∧
      (isStoreOp e.opcode = true → ∃ q, lsqAt s s.lsqHead = some q ∧ q.addr.toNat < s.cfg.dataMemSize) := by
  obtain ⟨hlsq, hdmem, hcfg⟩ : lsqAt a a.lsqHead = lsqAt s s.lsqHead ∧ a.dmem = s.dmem ∧ a.cfg = s.cfg := by
    obtain ⟨-, rfl⟩ | ⟨pd, prev, -, -, -, -, -, rfl⟩ := commitDest_eq_next ha <;> exact ⟨rfl, rfl, rfl⟩
  obtain ⟨hu, rfl⟩ | ⟨q, -, hq, ⟨hst, rfl⟩ | ⟨hst, hin, rfl⟩⟩ := commitMem_eq_next hb
  · have hst := isStoreOp_of_not_usesLsq hu
    exact ⟨by rw [memoryAfter_of_noStore hst, hdmem], by simp [hst]⟩
  · exact ⟨by rw [memoryAfter_of_noStore hst]; exact hdmem, by simp [hst]⟩
  · have hq := hlsq.symm.trans hq
    refine ⟨?_, fun _ => ⟨q, hq, hcfg ▸ of_decide_eq_true hin⟩⟩
    rw [memoryAfter_of_store hst hq, ← hdmem]
    rfl

/-- A retirement changes the memory in the memory part only. -/
theorem retire_dmem {e : RobEntry} {s t : State} (h : retire e s = .next t) : t.dmem = memoryAfter e s ∧
    (isStoreOp e.opcode = true → ∃ q, lsqAt s s.lsqHead = some q ∧ q.addr.toNat < s.cfg.dataMemSize) := by
  obtain ⟨a, b, ha, hb, hend⟩ := retire_eq_next h
  have hsame : t.dmem = b.dmem := by
    obtain ⟨m, rr, n, l, hbr⟩ := commitBranch_frame e b
    obtain ⟨-, rfl⟩ | ⟨ck, -, -, ⟨-, rfl⟩ | ⟨-, hfl⟩⟩ := hend
    · rfl
    · rw [hbr]
      rfl
    · rw [flush_eq_next hfl, hbr]
      rfl
  rw [hsame]
  exact commitMem_writes ha hb

/-- The retirement of an instruction with a destination (R323, R326), a load's included. -/
theorem committedHead_of_dest {e : RobEntry} {pd prev : Nat} (hd : hasDest e.opcode = true) (hpd : e.pd = some pd)
    (hprev : e.prev = some prev) (s : State) : committedHead e s = { s with
      rrat := s.rrat.set e.rd pd, free := s.free.set prev true, committed := s.committed + 1
      rob := s.rob.set s.robHead none, robHead := (s.robHead + 1) % s.cfg.robSize, robCount := s.robCount - 1
      lsq := if usesLsq e.opcode then s.lsq.set s.lsqHead none else s.lsq
      lsqHead := if usesLsq e.opcode then (s.lsqHead + 1) % s.cfg.lsqSize else s.lsqHead
      lsqCount := s.lsqCount - (if usesLsq e.opcode then 1 else 0) } := by
  have hbr : isBranch e.opcode = false := isBranch_of_hasDest hd
  have hst : isStoreOp e.opcode = false := Bool.eq_false_iff.2 fun h => by simp [hasDest_of_isStoreOp h] at hd
  have hhalt : e.opcode ≠ .halt := fun h => by simp [h, hasDest] at hd
  cases hu : usesLsq e.opcode <;>
    simp [committedHead, retiredHead, memoryAfter_of_noStore hst, trainedBy_of_noBranch hbr, hbr, hu, hhalt, hprev,
      mapAfter_of_dest hpd]

section
variable {e : RobEntry} {s : State} (hs : EngineInv s) (h0 : s.robCount ≠ 0) (he : robAt s s.robHead = some e)
  (hc : e.complete = true)
include hs he

/-- The parts of a retirement but the flush, as one state. -/
theorem commitHead_eq_committedHead {a b : State} (ha : commitDest e s = .next a) (hb : commitMem e a = .next b) :
    commitHead e (commitBranch e b) = committedHead e s := by
  obtain ⟨hpd, hprev, -⟩ := head_entries hs.coupled he
  have hmem := (commitMem_writes ha hb).1
  rw [commitHead_eq hpd hprev ha hb, hmem, committedHead]
  cases hbr : isBranch e.opcode with
  | false =>
    rw [trainedBy_of_noBranch hbr]
    have hkeep : b.btb = s.btb ∧ b.btbRr = s.btbRr ∧ b.victimDraws = s.victimDraws := by
      rw [commitMem_eq hb, commitDest_eq hpd hprev ha]
      exact ⟨rfl, rfl, rfl⟩
    obtain ⟨hbtb, hrr, hn⟩ := hkeep
    simp [commitBranch, hbr, hbtb, hrr, hn]
  | true =>
    obtain rfl : s = a := by simpa [commitDest, hasDest_of_isBranch hbr] using ha
    obtain rfl : s = b := by simpa [commitMem, usesLsq_of_isBranch hbr] using hb
    rw [trainedBy_of_branch hbr, commitBranch, if_pos hbr]
    rfl

omit hs in
theorem robAt_committedHead : robAt (committedHead e s) s.robHead = none := ringAt_set_self (ringAt_lt he)

/-- A memory operation has left the LSQ's head slot (R289). -/
theorem lsqAt_committedHead (hu : usesLsq e.opcode = true) : lsqAt (committedHead e s) s.lsqHead = none := by
  obtain ⟨q, hq, -⟩ := exists_lsqHead hs he hu
  have hnone : ringAt (s.lsq.set s.lsqHead none) s.lsqHead = none := ringAt_set_self (ringAt_lt hq)
  rw [lsqAt, committedHead, retiredHead, if_pos hu]
  exact hnone

include h0 hc

/-- A head that raises no error and is not mispredicted retires (R323 to R326). -/
theorem commit_of_head (hf : e.fault = false) (hm : e.mispredicted = false) : commit s = .next (committedHead e s) := by
  obtain ⟨t, ht⟩ := commit_answers hs
  rw [ht]
  obtain ⟨-, h | ⟨e', he', hc'⟩⟩ | ⟨e', -, he', -, ⟨hf', -⟩ | ⟨-, hret⟩⟩ := commit_eq_next ht
  · exact absurd h h0
  all_goals obtain rfl : e = e' := Option.some.inj (he.symm.trans he')
  · simp [hc] at hc'
  · simp [hf] at hf'
  · obtain ⟨a, b, ha, hb, ⟨hbr, rfl⟩ | ⟨ck, -, -, ⟨-, rfl⟩ | ⟨hm', -⟩⟩⟩ := retire_eq_next hret
    · rw [← commitHead_eq_committedHead hs he ha hb, commitBranch, hbr]
      rfl
    · rw [commitHead_eq_committedHead hs he ha hb]
    · simp [hm] at hm'

/-- A mispredicted branch retires and flushes with its own checkpoint, the bottom one (R325 to R328). -/
theorem commit_of_mispredicted (hf : e.fault = false) (hm : e.mispredicted = true) :
    ∃ ck, s.bis.head? = some ck ∧ ck.rob = s.robHead ∧ commit s = .next (flushState ck (branchNext e.pc e.actTaken e.actTarget)
      { committedHead e s with
        free := (robDests (committedHead e s).rob).foldl (fun l p => l.set p true) (committedHead e s).free }) := by
  obtain ⟨t, ht⟩ := commit_answers hs
  have hbranch := (hs.coupled.instr _ e he List.not_mem_nil).branch
  rw [ht]
  obtain ⟨-, h | ⟨e', he', hc'⟩⟩ | ⟨e', -, he', -, ⟨hf', -⟩ | ⟨-, hret⟩⟩ := commit_eq_next ht
  · exact absurd h h0
  all_goals obtain rfl : e = e' := Option.some.inj (he.symm.trans he')
  · simp [hc] at hc'
  · simp [hf] at hf'
  · obtain ⟨a, b, ha, hb, ⟨hbr, -⟩ | ⟨ck, hbr, hck, ⟨hm', -⟩ | ⟨-, hflush⟩⟩⟩ := retire_eq_next hret
    · simp [hm, hbr] at hbranch
    · simp [hm] at hm'
    · obtain rfl : s = a := by simpa [commitDest, hasDest_of_isBranch hbr] using ha
      obtain rfl : s = b := by simpa [commitMem, usesLsq_of_isBranch hbr] using hb
      obtain ⟨l, hl, hrob⟩ := bisOldest_eq_some hck
      rw [commitHead_eq_committedHead hs he ha hb] at hflush
      exact ⟨ck, by rw [hl]; rfl, hrob, by rw [flush_eq_next hflush]⟩

omit h0 hc in
theorem head_noDest (hd : hasDest e.opcode = false) : e.pd = none ∧ e.prev = none := by
  obtain ⟨-, hprev, -⟩ := head_entries hs.coupled he
  exact ⟨hs.coupled.pd_eq_none he hd, by simpa [hd] using hprev⟩

omit h0 hc in
/-- A store's retirement: it has no destination (R289, R324, R326). -/
theorem committedHead_of_store (hst : isStoreOp e.opcode = true) : committedHead e s = { s with
    dmem := memoryAfter e s, committed := s.committed + 1
    lsq := s.lsq.set s.lsqHead none, lsqHead := (s.lsqHead + 1) % s.cfg.lsqSize, lsqCount := s.lsqCount - 1
    rob := s.rob.set s.robHead none, robHead := (s.robHead + 1) % s.cfg.robSize, robCount := s.robCount - 1 } := by
  have hu := usesLsq_of_isStoreOp hst
  have hbr := isBranch_of_usesLsq hu
  have hhalt : e.opcode ≠ .halt := fun h => by simp [h, isStoreOp] at hst
  obtain ⟨hpd, hprev⟩ := head_noDest hs he (hasDest_of_isStoreOp hst)
  simp [committedHead, retiredHead, trainedBy_of_noBranch hbr, hbr, hu, hhalt, hprev, mapAfter_of_noDest hpd]

omit h0 hc in
/-- A branch's retirement: it has no destination and no LSQ entry (R325, R326). -/
theorem committedHead_of_branch (hbr : isBranch e.opcode = true) : committedHead e s = { s with
    btb := (btbUpdate e.pc e.actTaken e.actTarget s).btb
    btbRr := (btbUpdate e.pc e.actTaken e.actTarget s).btbRr
    victimDraws := (btbUpdate e.pc e.actTaken e.actTarget s).victimDraws
    bis := s.bis.tail, committed := s.committed + 1
    rob := s.rob.set s.robHead none, robHead := (s.robHead + 1) % s.cfg.robSize, robCount := s.robCount - 1 } := by
  have hu := usesLsq_of_isBranch hbr
  have hhalt : e.opcode ≠ .halt := fun h => by simp [h, isBranch] at hbr
  obtain ⟨hpd, hprev⟩ := head_noDest hs he (hasDest_of_isBranch hbr)
  simp [committedHead, retiredHead, memoryAfter_of_noStore (isStoreOp_of_not_usesLsq hu), trainedBy_of_branch hbr, hbr, hu, hhalt,
    hprev, mapAfter_of_noDest hpd]

omit h0 hc in
/-- HALT's retirement (R326, R346). -/
theorem committedHead_of_halt (ho : e.opcode = .halt) : committedHead e s = { s with
    halted := true, committed := s.committed + 1, robCount := s.robCount - 1
    rob := s.rob.set s.robHead none, robHead := (s.robHead + 1) % s.cfg.robSize } := by
  obtain ⟨hpd, hprev⟩ := head_noDest hs he (by rw [ho]; rfl)
  have hu : usesLsq e.opcode = false := by rw [ho]; rfl
  have hbr : isBranch e.opcode = false := by rw [ho]; rfl
  simp [committedHead, retiredHead, memoryAfter_of_noStore (isStoreOp_of_not_usesLsq hu), trainedBy_of_noBranch hbr, ho, usesLsq,
    isBranch, hprev, mapAfter_of_noDest hpd]

omit h0 hc in
/-- Only a memory operation records a fault (R290). -/
theorem head_fault_of_noLsq (hu : usesLsq e.opcode = false) : e.fault = false :=
  (hs.coupled.instr _ e he List.not_mem_nil).fault hu

omit h0 hc in
/-- Only a branch is mispredicted (R254). -/
theorem head_mispredicted_of_noBranch (hbr : isBranch e.opcode = false) : e.mispredicted = false := by
  simpa [hbr] using (hs.coupled.instr _ e he List.not_mem_nil).branch

omit h0 in
/-- A store at the head that commits names the LSQ head entry, whose address is in range (R47 (b), R290, R324). -/
theorem head_store (hf : e.fault = false) (hst : isStoreOp e.opcode = true) : ∃ q, lsqAt s s.lsqHead = some q ∧
    q.rob = s.robHead ∧ q.addrValid = true ∧ q.addr.toNat < s.cfg.dataMemSize := by
  have hu := usesLsq_of_isStoreOp hst
  obtain ⟨q, hq, hqr⟩ := exists_lsqHead hs he hu
  obtain ⟨hstore, -, hdone, haddr, hfault, -⟩ := lsqAgrees_iff.1 ((hs.coupled.instr _ e he List.not_mem_nil).lsq _ q hq hqr)
  have hvalid : q.addrValid = true := by simpa [hstore.trans hst, hdone, hc] using haddr
  have hin : inData s q.addr = true := by simpa [hf, hvalid] using hfault
  exact ⟨q, hq, hqr, hvalid, of_decide_eq_true hin⟩

end

end Sys2Proof.Machine

section
open Sys2Proof Sys2Proof.Machine

/-- Settles O43: the head's `prev` is the register that the retirement map has for `rd`, and its own register is valid. -/
theorem commitRegister : Obligations.CommitRegister := by
  intro s e hs h0 he hc hf hd
  have hcoupled := hs.coupled
  obtain ⟨hpdSome, hprevSome, hrd⟩ := head_entries hcoupled he
  obtain ⟨pd, hpd⟩ := Option.isSome_iff_exists.1 (hpdSome.trans hd)
  obtain ⟨prev, hprev⟩ := Option.isSome_iff_exists.1 (hprevSome.trans hd)
  have hmap : s.rrat[e.rd]? = some prev := (head_prev hcoupled he (by rw [hpd]; rfl)).symm.trans hprev
  have hready : prfReady s pd = some true := by
    simpa [hc, hf] using (hcoupled.instr _ e he List.not_mem_nil).dest pd hpd
  obtain ⟨⟨v, b⟩, hprf, rfl⟩ := Option.map_eq_some_iff.1 hready
  have hbr : isBranch e.opcode = false := isBranch_of_hasDest hd
  have hstate := committedHead_of_dest hd hpd hprev s
  have hlt : e.rd < s.rrat.length := (List.getElem?_eq_some_iff.1 hmap).1
  have hread : readReg (committedHead e s) e.rd = v := by
    rw [hstate]
    exact readReg_of_holds (List.getElem?_set_self hlt) hprf
  refine ⟨committedHead e s, pd, prev, commit_of_head hs h0 he hc hf (head_mispredicted_of_noBranch hs he hbr), hpd, hprev, hmap,
    by rw [hread, hprf], fun i hi => ?_, robAt_committedHead he, lsqAt_committedHead hs he, hstate⟩
  rw [hstate]
  simp only [readReg, List.getElem?_set_ne (Ne.symm hi)]

/-- Settles O44: a store's entry heads the LSQ, and the memory reads by the laws of a write. -/
theorem commitStore : Obligations.CommitStore := by
  intro s e hs h0 he hc hf hst
  obtain ⟨q, hq, hqr, hvalid, hlt⟩ := head_store hs he hc hf hst
  have hu := usesLsq_of_isStoreOp hst
  have hcommit := commit_of_head hs h0 he hc hf (head_mispredicted_of_noBranch hs he (isBranch_of_usesLsq hu))
  have hstate := committedHead_of_store hs he hst
  have hdmem : (committedHead e s).dmem = s.dmem.write q.addr.toNat q.value := by rw [hstate, memoryAfter_of_store hst hq]
  obtain ⟨-, -, -, ⟨hwf, -⟩, -⟩ := id hs
  refine ⟨committedHead e s, q, hcommit, hq, hqr, hvalid, hlt, ?_, fun a ha => ?_, lsqAt_committedHead hs he hu,
    robAt_committedHead he, ?_, ?_⟩
  · rw [hdmem, Memory.read_write_same _ _ hwf]
  · rw [hdmem, Memory.read_write_of_ne _ (Ne.symm ha)]
  · rw [hstate]
    exact ⟨rfl, rfl, rfl, rfl, rfl, rfl⟩
  · rw [hstate]

/-- Settles O45: neither a branch nor HALT has a destination or an LSQ entry, so neither can have a fault recorded. -/
theorem commitBranchAndHalt : Obligations.CommitBranchAndHalt := by
  intro s e hs h0 he hc
  constructor
  · intro hbr hm
    obtain ⟨ck, hck⟩ := bisOldest_of_head hs he hbr
    obtain ⟨l, hl, hrob⟩ := bisOldest_eq_some hck
    have hstate := committedHead_of_branch hs he hbr
    refine ⟨committedHead e s, ck, commit_of_head hs h0 he hc (head_fault_of_noLsq hs he (usesLsq_of_isBranch hbr)) hm, ?_,
      by rw [hl]; rfl, hrob, robAt_committedHead he, ?_, ?_⟩
    · rw [hstate]
      exact ⟨rfl, rfl, rfl⟩
    · rw [hstate]
      exact ⟨rfl, rfl, rfl, rfl, rfl, rfl⟩
    · rw [hstate]
  · intro ho
    have hf := head_fault_of_noLsq hs he (by rw [ho]; rfl)
    have hm := head_mispredicted_of_noBranch hs he (by rw [ho]; rfl)
    rw [commit_of_head hs h0 he hc hf hm, committedHead_of_halt hs he ho]

/-- Settles O46: the flushed engine meets the invariant with an empty ROB, so it is empty and owns only its committed registers. -/
theorem flushCompleteness : Obligations.FlushCompleteness := by
  intro s e hs h0 he hc hm
  have hbr : isBranch e.opcode = true := by_contra fun h => by
    simp [head_mispredicted_of_noBranch hs he (Bool.eq_false_iff.2 h)] at hm
  obtain ⟨ck, hck, hrob, hcommit⟩ := commit_of_mispredicted hs h0 he hc (head_fault_of_noLsq hs he (usesLsq_of_isBranch hbr)) hm
  have ht := commit_engineInv hs hcommit
  rw [committedHead_of_branch hs he hbr] at hcommit ht
  generalize List.foldl _ _ _ = F at hcommit ht
  have hidle := nothingInFlight_of_robCount_eq_zero ht rfl
  obtain ⟨-, -, hpool, -, hrat, -⟩ := ht.coupled.rename
  refine ⟨_, ck, hcommit, hck, hrob, hidle, rfl, rfl, rfl, hrat, rfl, fun p hp => ?_, rfl, rfl, rfl, rfl, rfl, rfl,
    ⟨rfl, rfl, rfl⟩, rfl⟩
  rw [hpool p hp, owned_of_empty rfl]

end

/-! ## Runs and their starts

SUPPORT. What a run keeps, what a tick that raises the error or writes the memory does, and what the reader of a program reports (R360, R366,
R384). -/

namespace Sys2Proof.Machine

theorem step_of_done {s : State} (h : done s = true) : step s = .next s := by simp [step, tick, h]

/-- The tick of a recorded fault: commit raises it, the count goes up, and no other stage runs (R322, R360). -/
theorem step_of_fault {s : State} {e : RobEntry} (hd : done s = false) (h0 : s.robCount ≠ 0) (he : robAt s s.robHead = some e)
    (hc : e.complete = true) (hf : e.fault = true) :
    step s = .next (bumpCycle (raiseAddressOutOfRange e.pc e.faultAddr s)) := by
  simp [step, tick, hd, tickStages, commit, h0, he, hc, hf]

/-- What every step keeps, every run keeps. -/
theorem run_keeps {P : State → Prop} (hstep : ∀ {s t}, P s → step s = .next t → P t) {n : Nat} {s t : State} (hs : P s)
    (h : Host.Core.run core n s = .next t) : P t := by
  induction n generalizing s with
  | zero =>
    obtain rfl : s = t := Host.Outcome.next.inj h
    exact hs
  | succ n ih =>
    obtain ⟨u, hu, h⟩ := run_succ_eq_next h
    exact ih (hstep hs hu) h

/-- A step counts at least as many ticks as instructions (R418). -/
theorem step_committed_le_cycle {s t : State} (hs : s.committed ≤ s.cycle) (h : step s = .next t) : t.committed ≤ t.cycle := by
  cases hd : done s with
  | true =>
    obtain rfl : s = t := Host.Outcome.next.inj ((step_of_done hd).symm.trans h)
    exact hs
  | false =>
    obtain ⟨-, -, hcycle, hcommitted, -⟩ := stepStatusFields s t h
    rw [hd, if_neg nofun] at hcycle
    omega

/-- Commit changes the memory only by a store at the head, at its index and to its value (R324). -/
theorem commit_read {s t : State} {a : Nat} (hwf : s.dmem.wf = true) (h : commit s = .next t) (hne : t.dmem.read a ≠ s.dmem.read a) :
    ∃ e q, robAt s s.robHead = some e ∧ e.complete = true ∧ e.fault = false ∧ isStoreOp e.opcode = true ∧
      lsqAt s s.lsqHead = some q ∧ q.addr.toNat = a ∧ a < s.cfg.dataMemSize ∧ t.dmem.read a = q.value ∧
      t.committed = s.committed + 1 := by
  obtain ⟨rfl, -⟩ | ⟨e, -, he, hc, ⟨-, rfl⟩ | ⟨hf, hret⟩⟩ := commit_eq_next h
  · exact absurd rfl hne
  · exact absurd rfl hne
  obtain ⟨hdmem, hstore⟩ := retire_dmem hret
  obtain ⟨-, hcommitted, -⟩ := retire_effect hret
  cases hst : isStoreOp e.opcode with
  | false =>
    rw [hdmem, memoryAfter_of_noStore hst] at hne
    exact absurd rfl hne
  | true =>
    obtain ⟨q, hq, hlt⟩ := hstore hst
    rw [memoryAfter_of_store hst hq] at hdmem
    obtain rfl : q.addr.toNat = a := by
      by_contra ha
      exact hne (by rw [hdmem, Memory.read_write_of_ne _ ha])
    exact ⟨e, q, he, hc, hf, hst, hq, rfl, hlt, by rw [hdmem, Memory.read_write_same _ _ hwf], hcommitted⟩

/-- The word of a memory image at an index that exists does not depend on the pairs outside the memory (R411). -/
theorem Memory.read_ofList_filter {n a : Nat} (ha : a < n) (l : List (Nat × Word)) :
    Memory.read (Memory.ofList (l.filter fun x => decide (x.1 < n))) a =
      ((l.find? fun x => decide (x.1 = a)).map Prod.snd).getD 0 := by
  have hfind : (fun x : Nat × Word => decide (decide (x.1 < n) = true ∧ decide (x.1 = a) = true)) = fun x => decide (x.1 = a) := by
    funext x
    simp only [decide_eq_true_eq, decide_eq_decide]
    omega
  rw [Memory.read_ofList, List.find?_filter, hfind]
  rfl

/-- A committed register of the initial state reads its initial value (R46, R411). -/
theorem readReg_initial {c : Params} (hc : c.numArch < c.numPhys) (prog : List Instr) (initReg : List Word) (m : Memory) {i : Nat}
    (hi : i < c.numArch) : readReg (State.initial c prog initReg m) i = initReg.getD i 0 := by
  have hmap : (State.initial c prog initReg m).rrat[i]? = some i := List.getElem?_range hi
  refine readReg_of_holds hmap ((State.initial_prf c prog initReg m (hi.trans hc)).trans ?_)
  rw [if_pos hi]

end Sys2Proof.Machine

namespace Sys2Proof

/-- `collect` reports the lowest element that names no instruction (R384). -/
theorem collect_eq_error {α : Type} {f : α → Except DecodeError Instr} {k j : Nat} {as : List α} :
    collect f k as = .error j ↔ ∃ n, j = k + n ∧ (∃ a, as[n]? = some a ∧ ¬ ∃ i, f a = .ok i) ∧
      ∀ m < n, ∀ a, as[m]? = some a → ∃ i, f a = .ok i := by
  induction as generalizing k with
  | nil => simp [collect]
  | cons a as ih =>
    cases hf : f a with
    | error e =>
      have hbad : collect f k (a :: as) = .error k := by simp [collect, hf]
      rw [hbad]
      constructor
      · rintro ⟨⟩
        exact ⟨0, rfl, ⟨a, rfl, by simp [hf]⟩, by simp⟩
      · rintro ⟨n, rfl, -, hlow⟩
        cases n with
        | zero => rfl
        | succ n => simpa [hf] using hlow 0 n.succ_pos a rfl
    | ok i =>
      have hgood : collect f k (a :: as) = .error j ↔ collect f (k + 1) as = .error j := by
        cases hrest : collect f (k + 1) as <;> simp [collect, hf, hrest]
      rw [hgood, ih]
      constructor
      · rintro ⟨n, rfl, hbad, hlow⟩
        refine ⟨n + 1, by omega, hbad, fun m hm b hb => ?_⟩
        cases m with
        | zero => exact ⟨i, by cases hb; exact hf⟩
        | succ m => exact hlow m (by omega) b hb
      · rintro ⟨n, rfl, ⟨b, hb, hbad⟩, hlow⟩
        cases n with
        | zero =>
          cases hb
          exact absurd ⟨i, hf⟩ hbad
        | succ n => exact ⟨n, by omega, ⟨b, hb, hbad⟩, fun m hm => hlow (m + 1) (by omega)⟩

end Sys2Proof

section
open Sys2Proof Sys2Proof.Machine

/-- Settles O50: the stages after commit keep the memory. -/
theorem memoryChangesOnlyByCommittedStore : Obligations.MemoryChangesOnlyByCommittedStore := by
  intro s t a hwf h hne
  cases hd : done s with
  | true =>
    obtain rfl : s = t := Host.Outcome.next.inj ((step_of_done hd).symm.trans h)
    exact absurd rfl hne
  | false =>
    obtain ⟨u, v, hu, hk, rfl⟩ := tick_keepsCommitted h hd
    have hdmem : (bumpCycle v).dmem = u.dmem := hk.dmem
    have hcommitted : (bumpCycle v).committed = u.committed := hk.committed
    rw [hdmem] at hne ⊢
    rw [hcommitted]
    exact commit_read hwf hu hne

/-- Settles O59: the engine is in step with the interpreter (`Follows`). -/
theorem programOrderCommit : Obligations.ProgramOrderCommit := by
  intro c prog initReg initMem btb rr n s hc hprog hmem hlen hbtb hrun
  obtain ⟨rfl, rfl, r, hr, hf⟩ := follows_of_run hc hprog hmem hlen hbtb hrun
  obtain ⟨z, -, hshows⟩ := hf.flight
  exact ⟨r, hr, hshows.registers, hshows.dmem, hshows.halted, hshows.error, hf.raised, fun hd _ _ => hf.step?_of_drained hd⟩

/-- Settles O42, case by case of commit. -/
theorem commitWaitsOrRaises : Obligations.CommitWaitsOrRaises := by
  refine fun s => ⟨commit_of_empty, fun e h0 he => ⟨fun hc => ?_, fun hc hf hd => ?_⟩⟩
  · simp [commit, h0, he, hc]
  · exact ⟨_, step_of_fault hd h0 he hc hf, rfl, by simp [done]⟩

/-- Settles O7: an accepted program is read record by record, and the engine is the initial state of it and the images. -/
theorem initializeEstablishesInv : Obligations.InitializeEstablishesInv := by
  intro c rs initReg initMem s hc h
  obtain ⟨is, his, rfl⟩ := initializeFrom_eq_ok.1 h
  have hlen : is.length = rs.length := collect_length his
  refine ⟨engineInv_of_initializeFrom h (hlen ▸ hc) fun i hi => ?_, rfl, hlen, fun k r hr => ?_,
    fun i hi => readReg_initial hc.1 is initReg _ hi, fun a ha => Memory.read_ofList_filter ha initMem⟩
  · obtain ⟨r, -, hvalid⟩ := exists_mem_of_collect his hi
    exact (StaticRecord.validate_eq_ok.1 hvalid).2
  · obtain ⟨i, hi, hvalid⟩ := collect_getElem? his hr
    exact ⟨i, hi, (StaticRecord.validate_eq_ok.1 hvalid).1⟩

/-- Settles O47: a tick looks at `done` first. -/
theorem doneStepChangesNothing : Obligations.DoneStepChangesNothing := fun _ => step_of_done

/-- Settles O8: the records are read in order, and a record is good iff `validate` accepts it. -/
theorem initializeRejectsLowestBadRecord : Obligations.InitializeRejectsLowestBadRecord := by
  refine fun c rs initReg initMem => ⟨fun k => ?_, StaticRecord.toInstr_isOk⟩
  have herror : initializeRecords c rs initReg initMem = .error k ↔ validateProgram c.numArch rs = .error k := by
    rw [initializeRecords]
    cases validateProgram c.numArch rs <;> simp [initializeFrom]
  rw [herror, validateProgram, collect_eq_error]
  simp only [StaticRecord.validate_eq_ok, Nat.zero_add, exists_eq_left']

/-- Settles O56: both counts start at 0, and a step that commits an instruction counts a cycle. -/
theorem committedNeverExceedsCycle : Obligations.CommittedNeverExceedsCycle := by
  rintro s ⟨c, prog, initReg, initMem, n, -, -, -, hrun⟩
  exact run_keeps (P := fun s => s.committed ≤ s.cycle) step_committed_le_cycle (Nat.le_refl 0) hrun

end

/-! ## The head of the ROB on its way

SUPPORT. Where the oldest instruction in flight stands, and what each stage of a tick makes of it: from the issue queue through its
unit, for a load through the load access, to completion (R360, R361). -/

namespace Sys2Proof.Machine

/-! ### What the stages between commit and dispatch change -/

/-- Only registers, issue queue, units, ROB and LSQ entries change. -/
def FlightOnly (s t : State) : Prop := ∃ prf iq i m b e rob lsq,
  t = { s with prf := prf, iq := iq, intU := i, mulU := m, brU := b, memU := e, rob := rob, lsq := lsq }

theorem FlightOnly.robHead {s t : State} (h : FlightOnly s t) : t.robHead = s.robHead := by
  obtain ⟨prf, iq, i, m, b, e, rob, lsq, rfl⟩ := h
  rfl

theorem lsqLoadAccess_flightOnly {s t : State} (h : lsqLoadAccess s = .next t) : FlightOnly s t := by
  obtain ⟨-, rfl⟩ | ⟨l, q, p, e, -, -, -, -, -, rfl⟩ := lsqLoadAccess_eq_next h <;> exact ⟨_, _, _, _, _, _, _, _, rfl⟩

theorem evalUnit_flightOnly {c : UnitClass} {s t : State} (h : evalUnit c s = .next t) : FlightOnly s t := by
  obtain ⟨-, rfl⟩ | ⟨op, u, -, hu, rfl⟩ := evalUnit_eq_next h
  · obtain ⟨i, m, b, e, hset⟩ := setUnit_frame c (advance (unitStages c s)) s
    exact ⟨_, _, _, _, _, _, _, _, hset⟩
  · obtain ⟨prf, iq, rob, lsq, rfl⟩ := lastStage_frame hu
    obtain ⟨i, m, b, e, hset⟩ := setUnit_frame c (advance _) { s with prf := prf, iq := iq, rob := rob, lsq := lsq }
    exact ⟨_, _, _, _, _, _, _, _, hset⟩

theorem issueClass_flightOnly {c : UnitClass} {s t : State} (h : issueClass c s = .next t) : FlightOnly s t := by
  obtain ⟨rfl, -⟩ | ⟨q, e, vs, -, -, -, rfl⟩ := issueClass_eq_next h
  · exact ⟨_, _, _, _, _, _, _, _, rfl⟩
  · obtain ⟨i, m, b, e, hset⟩ := setUnit_frame c ((unitStages c s).set 0 _) { s with iq := s.iq.set q none }
    exact ⟨_, _, _, _, _, _, _, _, hset⟩

/-- The issue queue changes by a wake-up at most (R180). -/
def WakesOnly (s t : State) : Prop := t.iq = s.iq ∨ ∃ p, t.iq = s.iq.map (Option.map (IqEntry.wake p))

theorem lsqLoadAccess_wakesOnly {s t : State} (h : lsqLoadAccess s = .next t) : WakesOnly s t := by
  obtain ⟨-, rfl⟩ | ⟨l, q, p, e, -, -, -, -, -, rfl⟩ := lsqLoadAccess_eq_next h
  · exact .inl rfl
  · exact .inr ⟨p, rfl⟩

theorem lastStage_wakesOnly {c : UnitClass} {op : UnitLatch} {s t : State} (h : lastStage c op s = .next t) : WakesOnly s t := by
  cases c with
  | mem =>
    obtain ⟨a, -, h⟩ := memLast_eq_next h
    obtain ⟨l, q, -, -, ⟨-, -, rfl⟩ | ⟨e, -, ⟨-, -, rfl⟩ | ⟨-, rfl⟩⟩⟩ := memRecord_eq_next h <;> exact .inl rfl
  | br =>
    obtain ⟨e, taken, target, -, -, rfl⟩ := branchLast_eq_next h
    exact .inl rfl
  | mul | int =>
    obtain ⟨e, -, ⟨rfl, -⟩ | ⟨v, p, -, -, -, rfl⟩⟩ := aluLast_eq_next h
    · exact .inl rfl
    · exact .inr ⟨p, rfl⟩

theorem evalUnit_wakesOnly {c : UnitClass} {s t : State} (h : evalUnit c s = .next t) : WakesOnly s t := by
  have hset : ∀ l u, (setUnit c l u).iq = u.iq := fun l u => by cases c <;> rfl
  obtain ⟨-, rfl⟩ | ⟨op, u, -, hu, rfl⟩ := evalUnit_eq_next h
  · exact .inl (hset _ s)
  · rw [WakesOnly, hset]
    exact lastStage_wakesOnly hu

theorem unitStages_evalUnit_self {c : UnitClass} {s t : State} (h : evalUnit c s = .next t) :
    unitStages c t = advance (unitStages c s) := by
  obtain ⟨-, rfl⟩ | ⟨op, u, -, hu, rfl⟩ := evalUnit_eq_next h
  · exact unitStages_setUnit_self ..
  · rw [unitStages_setUnit_self, lastStage_unitStages hu]

theorem unitStages_evalUnit_ne {c c' : UnitClass} (hc : c' ≠ c) {s t : State} (h : evalUnit c s = .next t) :
    unitStages c' t = unitStages c' s := by
  obtain ⟨-, rfl⟩ | ⟨op, u, -, hu, rfl⟩ := evalUnit_eq_next h
  · exact unitStages_setUnit_ne hc _ _
  · rw [unitStages_setUnit_ne hc, lastStage_unitStages hu]

/-- After its evaluation a unit's first stage is empty, so Issue finds it free (R196, R198). -/
theorem stage1Free_evalUnit {c : UnitClass} {s t : State} (h : evalUnit c s = .next t) : stage1Free c t = true := by
  rw [stage1Free, unitStages_evalUnit_self h]
  obtain hnil | ⟨l, x, hl⟩ := (unitStages c s).eq_nil_or_concat
  · rw [hnil]
    rfl
  · rw [hl, List.concat_eq_append, advance_append]
    rfl

theorem robAt_set_self {s : State} {r : Nat} {e : RobEntry} (he : robAt s r = some e) (x : RobEntry) :
    ((s.rob.set r (some x))[r]?).join = some x := ringAt_set_self (ringAt_lt he)

/-- A last stage completes its instruction, except a load in range, which changes no ROB entry (R199, R253, R284). -/
theorem lastStage_rob {c : UnitClass} {op : UnitLatch} {s u : State} (h : lastStage c op s = .next u) :
    (c = .mem ∧ u.rob = s.rob) ∨
    ∃ e x, robAt s op.rob = some e ∧ x.complete = true ∧ u.rob = s.rob.set op.rob (some x) := by
  cases c with
  | mem =>
    obtain ⟨a, -, h⟩ := memLast_eq_next h
    obtain ⟨l, q, -, -, ⟨-, -, rfl⟩ | ⟨e, he, ⟨-, -, rfl⟩ | ⟨-, rfl⟩⟩⟩ := memRecord_eq_next h
    · exact .inl ⟨rfl, rfl⟩
    · exact .inr ⟨e, _, he, rfl, rfl⟩
    · exact .inr ⟨e, _, he, rfl, rfl⟩
  | br =>
    obtain ⟨e, taken, target, he, -, rfl⟩ := branchLast_eq_next h
    exact .inr ⟨e, _, he, rfl, rfl⟩
  | mul | int => obtain ⟨e, he, ⟨rfl, -⟩ | ⟨v, p, -, -, -, rfl⟩⟩ := aluLast_eq_next h <;> exact .inr ⟨e, _, he, rfl, rfl⟩

theorem setUnit_rob (c : UnitClass) (l : List (Option UnitLatch)) (s : State) : (setUnit c l s).rob = s.rob := by cases c <;> rfl

theorem setUnit_lsq (c : UnitClass) (l : List (Option UnitLatch)) (s : State) : (setUnit c l s).lsq = s.lsq := by cases c <;> rfl

/-- Only the memory unit touches the LSQ. -/
theorem evalUnit_lsq {c : UnitClass} (hc : c ≠ .mem) {s t : State} (h : evalUnit c s = .next t) : t.lsq = s.lsq := by
  obtain ⟨-, rfl⟩ | ⟨op, u, -, hu, rfl⟩ := evalUnit_eq_next h
  · exact setUnit_lsq ..
  rw [setUnit_lsq]
  cases c with
  | mem => exact absurd rfl hc
  | br =>
    obtain ⟨e, taken, target, -, -, rfl⟩ := branchLast_eq_next hu
    rfl
  | mul | int => obtain ⟨e, -, ⟨rfl, -⟩ | ⟨v, p, -, -, -, rfl⟩⟩ := aluLast_eq_next hu <;> rfl

/-! ### Where the head stands -/

/-- The head is in the issue queue, for unit `c`. -/
def HeadQueued (c : UnitClass) (s : State) : Prop := ∃ x, some x ∈ s.iq ∧ x.rob = s.robHead ∧ unitClass x.opcode = c

/-- The head is the operation `op` in stage `k` of unit `c`, counted from 0. -/
def HeadInStage (c : UnitClass) (k : Nat) (op : UnitLatch) (s : State) : Prop :=
  (unitStages c s)[k]? = some (some op) ∧ op.rob = s.robHead

/-- The head is a load that waits for its access. -/
def HeadAwaits (s : State) : Prop := AwaitsAccess s s.robHead

/-- The head is complete. -/
def HeadComplete (s : State) : Prop := ∃ e, robAt s s.robHead = some e ∧ e.complete = true

/-! ### The load access -/

theorem WakesOnly.headQueued {c : UnitClass} {s t : State} (h : WakesOnly s t) (hhead : t.robHead = s.robHead)
    (hs : HeadQueued c s) : HeadQueued c t := by
  obtain ⟨x, hx, hr, hc⟩ := hs
  obtain heq | ⟨p, heq⟩ := h
  · exact ⟨x, heq ▸ hx, hhead ▸ hr, hc⟩
  · exact ⟨x.wake p, heq ▸ List.mem_map_of_mem hx, hhead ▸ hr, hc⟩

theorem lsqLoadAccess_unitStages {s t : State} (h : lsqLoadAccess s = .next t) (c : UnitClass) : unitStages c t = unitStages c s := by
  obtain ⟨-, rfl⟩ | ⟨l, q, p, e, -, -, -, -, -, rfl⟩ := lsqLoadAccess_eq_next h <;> cases c <;> rfl

theorem lsqLoadAccess_headInStage {c : UnitClass} {k : Nat} {op : UnitLatch} {s t : State} (hs : HeadInStage c k op s)
    (h : lsqLoadAccess s = .next t) : HeadInStage c k op t :=
  ⟨lsqLoadAccess_unitStages h c ▸ hs.1, hs.2.trans (lsqLoadAccess_flightOnly h).robHead.symm⟩

/-- The head's load comes before every other operation of the LSQ, so it is the one that is performed (R287). -/
theorem lsqLoadAccess_headComplete {s t : State} (hs : EngineInv s) (hw : HeadAwaits s) (h : lsqLoadAccess s = .next t) :
    HeadComplete t := by
  obtain ⟨l, q, hl, hr, hw⟩ := hw
  obtain ⟨e, he, hu⟩ := hs.coupled.order.owner hs.coupled.queues hl
  rw [hr] at he
  obtain ⟨q', hq', hr'⟩ := exists_lsqHead hs he hu
  obtain ⟨-, rfl⟩ := hs.coupled.order.unique hs.coupled.queues hl hq' (hr.trans hr'.symm)
  have hfirst : firstEligible [] (lsqInOrder s) = some (s.lsqHead, q) := by
    rw [show lsqInOrder s = (s.lsqHead, q) :: _ from ringEntries_pop hs.coupled.queues.lsq hq', firstEligible]
    exact if_pos (by simpa [eligible, LsqEntry.waiting] using hw)
  obtain ⟨hnone, -⟩ | ⟨l', x, p, y, hsome, -, -, -, hy, rfl⟩ := lsqLoadAccess_eq_next h
  · simp [hfirst] at hnone
  · cases hfirst.symm.trans hsome
    rw [hr] at hy ⊢
    exact ⟨y.completed, robAt_set_self hy _, rfl⟩

/-! ### The units -/

theorem evalUnit_headInStage_ne {c c' : UnitClass} {k : Nat} {op : UnitLatch} {s t : State} (hc : c ≠ c') (hs : HeadInStage c k op s)
    (h : evalUnit c' s = .next t) : HeadInStage c k op t :=
  ⟨unitStages_evalUnit_ne hc h ▸ hs.1, hs.2.trans (evalUnit_flightOnly h).robHead.symm⟩

/-- Every tick moves an operation one stage on (R196). -/
theorem evalUnit_headInStage_next {c : UnitClass} {k : Nat} {op : UnitLatch} {s t : State} (hk : k + 1 < (unitStages c s).length)
    (hs : HeadInStage c k op s) (h : evalUnit c s = .next t) : HeadInStage c (k + 1) op.moved t := by
  obtain ⟨hget, hrob⟩ := hs
  refine ⟨?_, hrob.trans (evalUnit_flightOnly h).robHead.symm⟩
  rw [unitStages_evalUnit_self h]
  obtain hnil | ⟨l, x, hl⟩ := (unitStages c s).eq_nil_or_concat
  · simp [hnil] at hk
  · rw [hl, List.concat_eq_append] at hget hk
    rw [hl, List.concat_eq_append, advance_append, List.getElem?_cons_succ, List.getElem?_map]
    rw [List.length_append, List.length_singleton] at hk
    rw [List.getElem?_append_left (by omega)] at hget
    rw [hget]
    rfl

theorem lastOp_of_headInStage {c : UnitClass} {k : Nat} {op : UnitLatch} {s : State} (hk : k + 1 = (unitStages c s).length)
    (hs : HeadInStage c k op s) : lastOp (unitStages c s) = some op := by
  rw [lastOp, List.getLast?_eq_getElem?, ← hk, Nat.add_sub_cancel, hs.1]
  rfl

theorem evalUnit_headComplete {c : UnitClass} {s t : State} (hs : HeadComplete s) (h : evalUnit c s = .next t) : HeadComplete t := by
  obtain ⟨e, he, hc⟩ := hs
  rw [HeadComplete, (evalUnit_flightOnly h).robHead]
  obtain ⟨-, rfl⟩ | ⟨op, u, -, hu, rfl⟩ := evalUnit_eq_next h
  · exact ⟨e, by rw [robAt, setUnit_rob]; exact he, hc⟩
  rw [robAt, setUnit_rob]
  obtain ⟨-, hrob⟩ | ⟨e', x, he', hx, hrob⟩ := lastStage_rob hu
  · exact ⟨e, hrob ▸ he, hc⟩
  · rw [hrob]
    by_cases hr : op.rob = s.robHead
    · exact ⟨x, by rw [hr] at he' ⊢; exact robAt_set_self he' x, hx⟩
    · exact ⟨e, (ringAt_set_ne hr).trans he, hc⟩

theorem evalUnit_headAwaits {c : UnitClass} (hc : c ≠ .mem) {s t : State} (hs : HeadAwaits s) (h : evalUnit c s = .next t) :
    HeadAwaits t := by
  obtain ⟨l, q, hl, hr, hw⟩ := hs
  exact ⟨l, q, by rw [lsqAt, evalUnit_lsq hc h]; exact hl, hr.trans (evalUnit_flightOnly h).robHead.symm, hw⟩

/-- The last stage of another unit than MEM completes the head (R199, R253). -/
theorem evalUnit_completes {c : UnitClass} {k : Nat} {op : UnitLatch} {s t : State} (hc : c ≠ .mem)
    (hk : k + 1 = (unitStages c s).length) (hs : HeadInStage c k op s) (h : evalUnit c s = .next t) : HeadComplete t := by
  have hlast := lastOp_of_headInStage hk hs
  rw [HeadComplete, (evalUnit_flightOnly h).robHead]
  obtain ⟨hnone, -⟩ | ⟨op', u, hop, hu, rfl⟩ := evalUnit_eq_next h
  · simp [hlast] at hnone
  obtain rfl := Option.some.inj (hlast.symm.trans hop)
  obtain ⟨hmem, -⟩ | ⟨e, x, he, hx, hrob⟩ := lastStage_rob hu
  · exact absurd hmem hc
  · rw [robAt, setUnit_rob, hrob]
    rw [hs.2] at he ⊢
    exact ⟨x, robAt_set_self he x, hx⟩

/-- The memory unit completes a store and an access out of range; a load in range then waits for its access (R284, R290). -/
theorem evalUnit_mem_head {k : Nat} {op : UnitLatch} {a : Word} {s t : State} (hs : EngineInv s)
    (hk : k + 1 = (unitStages .mem s).length) (hop : HeadInStage .mem k op s) (ha : memAddress op = some a)
    (h : evalUnit .mem s = .next t) :
    if isStoreOp op.opcode = false ∧ inData s a = true then HeadAwaits t else HeadComplete t := by
  have hlast := lastOp_of_headInStage hk hop
  have hhead := (evalUnit_flightOnly h).robHead
  obtain ⟨-, e, he, ho, -, hcomplete, -, hi⟩ := hs.coupled.lastOp hlast
  have hok := hs.coupled.unit .mem op (mem_of_lastOp hlast)
  obtain ⟨-, hno⟩ | ⟨l, q, hl, -, hq, hqr, haddr⟩ := lsqLink_iff.1 hok.lsq
  · exact absurd (memAddress_of_unitClass hok.unit).1 (by simp [hno])
  obtain ⟨hstore, -, hdone, -⟩ := lsqAgrees_iff.1 (hi.lsq l q hq hqr)
  rw [ho] at hstore
  obtain ⟨hnone, -⟩ | ⟨op', u, hop', hu, rfl⟩ := evalUnit_eq_next h
  · simp [hlast] at hnone
  obtain rfl := Option.some.inj (hlast.symm.trans hop')
  rw [HeadAwaits, HeadComplete, hhead, AwaitsAccess]
  simp only [robAt, lsqAt, setUnit_rob, setUnit_lsq]
  rw [hop.2] at hqr
  cases hin : inData s a with
  | false =>
    obtain rfl := Host.Outcome.next.inj ((memLast_of_outOfRange ha hl hq he hin).symm.trans hu)
    rw [hop.2] at he ⊢
    rw [if_neg (by simp)]
    exact ⟨_, robAt_set_self he _, rfl⟩
  | true =>
    cases hst : isStoreOp op.opcode with
    | true =>
      obtain rfl := Host.Outcome.next.inj ((memLast_of_store ha hl hq he hin (hstore.trans hst)).symm.trans hu)
      rw [hop.2] at he ⊢
      rw [if_neg (by simp)]
      exact ⟨_, robAt_set_self he _, rfl⟩
    | false =>
      obtain rfl := Host.Outcome.next.inj ((memLast_of_load ha hl hq hin (hstore.trans hst)).symm.trans hu)
      rw [if_pos ⟨rfl, rfl⟩]
      exact ⟨l, _, ringAt_set_self (ringAt_lt hq), hqr, by simp [LsqEntry.waiting, hstore, hst, hdone, hcomplete]⟩

/-! ### Issue -/

theorem issueClass_rob {c : UnitClass} {s t : State} (h : issueClass c s = .next t) : t.rob = s.rob ∧ t.lsq = s.lsq := by
  obtain ⟨rfl, -⟩ | ⟨q, e, vs, -, -, -, rfl⟩ := issueClass_eq_next h
  · exact ⟨rfl, rfl⟩
  · exact ⟨setUnit_rob .., setUnit_lsq ..⟩

theorem issueClass_headComplete {c : UnitClass} {s t : State} (hs : HeadComplete s) (h : issueClass c s = .next t) :
    HeadComplete t := by
  rw [HeadComplete, robAt, (issueClass_flightOnly h).robHead, (issueClass_rob h).1]
  exact hs

theorem issueClass_headAwaits {c : UnitClass} {s t : State} (hs : HeadAwaits s) (h : issueClass c s = .next t) : HeadAwaits t := by
  simp only [HeadAwaits, AwaitsAccess, lsqAt, (issueClass_flightOnly h).robHead, (issueClass_rob h).2]
  exact hs

/-- Issue for a class changes that unit only (R182). -/
theorem unitStages_issueClass_ne {c c' : UnitClass} (hc : c ≠ c') {s t : State} (h : issueClass c' s = .next t) :
    unitStages c t = unitStages c s := by
  obtain ⟨rfl, -⟩ | ⟨q, e, vs, -, -, -, rfl⟩ := issueClass_eq_next h
  · rfl
  · rw [unitStages_setUnit_ne hc]
    cases c <;> rfl

/-- Issue writes a first stage only if it is empty (R182). -/
theorem issueClass_headInStage {c c' : UnitClass} {k : Nat} {op : UnitLatch} {s t : State} (hs : HeadInStage c k op s)
    (h : issueClass c' s = .next t) : HeadInStage c k op t := by
  refine ⟨?_, hs.2.trans (issueClass_flightOnly h).robHead.symm⟩
  by_cases hc : c = c'
  · subst hc
    obtain ⟨rfl, -⟩ | ⟨q, e, vs, hfree, -, -, rfl⟩ := issueClass_eq_next h
    · exact hs.1
    have hk : 0 ≠ k := fun hk => by
      subst hk
      simp [stage1Free, hs.1] at hfree
    rw [unitStages_setUnit_self, List.getElem?_set_ne hk]
    exact hs.1
  · exact unitStages_issueClass_ne hc h ▸ hs.1

/-- An entry of another class is not the head's, so the head stays (R182). -/
theorem issueClass_headQueued {c c' : UnitClass} {s t : State} (hc : c ≠ c') (hs : HeadQueued c s) (h : issueClass c' s = .next t) :
    HeadQueued c t := by
  obtain ⟨x, hx, hr, hcls⟩ := hs
  rw [HeadQueued, (issueClass_flightOnly h).robHead]
  obtain ⟨rfl, -⟩ | ⟨q, e, vs, -, hsel, -, rfl⟩ := issueClass_eq_next h
  · exact ⟨x, hx, hr, hcls⟩
  obtain ⟨hget, hclass, -⟩ := selectFor_eq_some hsel
  obtain ⟨j, hj⟩ := List.mem_iff_getElem?.1 hx
  have hne : q ≠ j := fun heq => by
    subst heq
    cases hget.symm.trans hj
    exact hc (hcls.symm.trans hclass)
  have hiq : ∀ l u, (setUnit c' l u).iq = u.iq := fun l u => by cases c' <;> rfl
  rw [hiq]
  exact ⟨x, List.mem_of_getElem? ((List.getElem?_set_ne hne).trans hj), hr, hcls⟩

theorem robAge_robHead (s : State) : robAge s s.robHead = 0 := by
  rw [robAge, Nat.add_sub_cancel_left, Nat.mod_self]

/-- Only the head has age 0 (R36). -/
theorem eq_robHead_of_robAge {s : State} (hs : EngineInv s) {r : Nat} (hr : r < s.cfg.robSize) (hage : robAge s r = 0) :
    r = s.robHead := by
  have hhead := hs.coupled.queues.rob.head
  have hslot := slot_of_age hr hhead
  rw [← robAge, hage, Nat.add_zero, Nat.mod_eq_of_lt hhead] at hslot
  exact hslot.symm

/-- The head is the oldest and its sources are committed registers, so it is issued as soon as its unit's turn comes (R181, R182). -/
theorem issueClass_headIssued {c : UnitClass} {s t : State} (hs : EngineInv s) (hfree : stage1Free c s = true) (hq : HeadQueued c s)
    (hlen : 0 < (unitStages c s).length) (h : issueClass c s = .next t) : ∃ op, HeadInStage c 0 op t := by
  obtain ⟨x, hx, hr, hcls⟩ := hq
  have hok := hs.coupled.iq x (mem_iqEntries.2 hx)
  have hready : ∀ y ∈ x.src, y.ready = true := fun y hy => by
    obtain ⟨hprf, hmap⟩ := hok.src y hy
    rw [hr, mapBefore_eq, entriesBefore_head] at hmap
    exact Option.some.inj (hprf.symm.trans (hs.coupled.committed _ hmap))
  obtain ⟨j, hj⟩ := List.mem_iff_getElem?.1 hx
  obtain ⟨q', e', hsel', hle⟩ := exists_selectFor_le hj ⟨hcls, hready⟩
  obtain ⟨rfl, hbusy | hnone⟩ | ⟨q, e, vs, -, hsel, -, rfl⟩ := issueClass_eq_next h
  · simp [hfree] at hbusy
  · simp [hsel'] at hnone
  cases hsel'.symm.trans hsel
  rw [hr, robAge_robHead s, Nat.le_zero] at hle
  obtain ⟨hget, -⟩ := selectFor_eq_some hsel
  obtain ⟨y, hy, -⟩ := robLink_iff.1 (hs.coupled.iq e' (mem_iqEntries.2 (List.mem_of_getElem? hget))).rob
  have hlt : e'.rob < s.cfg.robSize := hs.coupled.queues.rob.length ▸ ringAt_lt hy
  refine ⟨issueLatch e' vs, ?_, ?_⟩
  · rw [unitStages_setUnit_self]
    exact List.getElem?_set_self hlen
  · rw [(issueClass_flightOnly h).robHead]
    exact eq_robHead_of_robAge hs hlt hle

/-! ### The front end -/

theorem dispatch_robHead {s t : State} (h : dispatch s = .next t) : t.robHead = s.robHead := by
  obtain ⟨-, rfl⟩ | ⟨d, -, ⟨-, rfl⟩ | ⟨src, -, -, rfl⟩⟩ := dispatch_eq_next h
  · rfl
  · rfl
  · rw [dispatchWith_eq]

theorem dispatch_unitStages {s t : State} (h : dispatch s = .next t) (c : UnitClass) : unitStages c t = unitStages c s := by
  obtain ⟨-, rfl⟩ | ⟨d, -, ⟨-, rfl⟩ | ⟨src, -, -, rfl⟩⟩ := dispatch_eq_next h
  · cases c <;> rfl
  · cases c <;> rfl
  · exact unitStages_dispatchWith c

/-- A dispatch takes free slots, so it leaves every instruction in flight as it is (R164). -/
theorem dispatch_keepsInstr {s t : State} (hs : EngineInv s) (h : dispatch s = .next t) (r : Nat) : KeepsInstr r s t := by
  obtain ⟨-, rfl⟩ | ⟨d, -, ⟨-, rfl⟩ | ⟨src, hroom, -, rfl⟩⟩ := dispatch_eq_next h
  · exact ⟨fun _ h => h, fun _ _ h _ => h⟩
  · exact ⟨fun _ h => h, fun _ _ h _ => h⟩
  · exact keepsInstr_dispatchWith hs.coupled hroom r

theorem KeepsInstr.headComplete {s t : State} (h : KeepsInstr s.robHead s t) (hhead : t.robHead = s.robHead) (hs : HeadComplete s) :
    HeadComplete t := by
  obtain ⟨e, he, hc⟩ := hs
  exact ⟨e, hhead ▸ h.rob e he, hc⟩

theorem KeepsInstr.headAwaits {s t : State} (h : KeepsInstr s.robHead s t) (hhead : t.robHead = s.robHead) (hs : HeadAwaits s) :
    HeadAwaits t := by
  obtain ⟨l, q, hl, hr, hw⟩ := hs
  exact ⟨l, q, h.lsq l q hl hr, hhead ▸ hr, hw⟩

/-- Fetch changes the pc, the latch and the recovery flag only (R150). -/
theorem fetch_frame {s t : State} (h : fetch s = .next t) : ∃ pc f d, t = { s with pc := pc, fetchRecover := f, dr := d } := by
  obtain ⟨-, rfl⟩ | ⟨-, rfl, -⟩ | ⟨i, -, -, -, -, rfl⟩ := fetch_eq_next h <;> exact ⟨_, _, _, rfl⟩

end Sys2Proof.Machine

/-! ## Ticks in which nothing commits

SUPPORT. How many ticks the oldest instruction in flight needs until it is complete, place by place (R361, R416), and that until then
the engine shows the same committed state. -/

namespace Sys2Proof.Machine

/-! ### One such tick -/

/-- A tick that leads from `s` to `t` and in which commit waits. -/
structure IdleTick (s t : State) : Prop where
  running : done s = false
  waits : commit s = .next s
  step : step s = .next t

/-- `n` such ticks. -/
inductive IdleTicks : Nat → State → State → Prop
  | refl (s : State) : IdleTicks 0 s s
  | head {n : Nat} {s t u : State} : IdleTick s t → IdleTicks n t u → IdleTicks (n + 1) s u

theorem IdleTick.ticks {s t : State} (h : IdleTick s t) : IdleTicks 1 s t := .head h (.refl t)

theorem IdleTicks.trans {m n : Nat} {s t u : State} (h : IdleTicks m s t) (h' : IdleTicks n t u) : IdleTicks (n + m) s u := by
  induction h with
  | refl => exact h'
  | head hd _ ih => exact .head hd (ih h')

theorem run_of_step {n : Nat} {s t : State} (h : step s = .next t) : Host.Core.run core (n + 1) s = Host.Core.run core n t := by
  have hcore : core.step s = .next t := h
  simp only [Host.Core.run, hcore]

theorem IdleTicks.run {n m : Nat} {s t : State} (h : IdleTicks n s t) :
    Host.Core.run core (m + n) s = Host.Core.run core m t := by
  induction h with
  | refl => rfl
  | head hd _ ih => exact (run_of_step hd.step).trans ih

/-- The stages of such a tick, from the load access on (R360). -/
theorem IdleTick.stages {s t : State} (h : IdleTick s t) : ∃ a b c d e, lsqLoadAccess s = .next a ∧ evalUnits a = .next b ∧
    issue b = .next c ∧ dispatch c = .next d ∧ fetch d = .next e ∧ t = bumpCycle e := by
  obtain ⟨-, herr⟩ := halted_and_error_of_not_done h.running
  obtain ⟨hdone, -⟩ | ⟨a, -, ha, hend⟩ := tick_eq_next h.step
  · simp [h.running] at hdone
  obtain rfl := Host.Outcome.next.inj (h.waits.symm.trans ha)
  obtain ⟨hno, -⟩ | ⟨d, e, -, hd, he, rfl⟩ := hend
  · simp [herr] at hno
  obtain ⟨a, ha, hd⟩ := seq_eq_next.1 hd
  obtain ⟨b, hb, hd⟩ := seq_eq_next.1 hd
  obtain ⟨c, hc, hd⟩ := seq_eq_next.1 hd
  exact ⟨a, b, c, d, e, ha, hb, hc, hd, he, rfl⟩

/-- Such a tick keeps all that is committed and counts itself. -/
theorem IdleTick.keepsCommitted {s t : State} (h : IdleTick s t) : ∃ b, KeepsCommitted s b ∧ t = bumpCycle b := by
  obtain ⟨a, b, ha, hk, ht⟩ := tick_keepsCommitted h.step h.running
  obtain rfl := Host.Outcome.next.inj (h.waits.symm.trans ha)
  exact ⟨b, hk, ht⟩

theorem IdleTicks.committed {n : Nat} {s t : State} (h : IdleTicks n s t) : t.committed = s.committed := by
  induction h with
  | refl => rfl
  | head hd _ ih =>
    obtain ⟨b, hk, rfl⟩ := hd.keepsCommitted
    exact ih.trans hk.committed

theorem IdleTicks.setup {n : Nat} {s t : State} (h : IdleTicks n s t) : t.cfg = s.cfg ∧ t.prog = s.prog := by
  induction h with
  | refl => exact ⟨rfl, rfl⟩
  | head hd _ ih =>
    obtain ⟨b, hk, rfl⟩ := hd.keepsCommitted
    exact ⟨ih.1.trans hk.cfg, ih.2.trans hk.prog⟩

/-- Where unit class `c` takes its turn, `P` becomes `Q`; the other classes keep both (R182, R360). -/
theorem classes_reach {f : UnitClass → State → Out} {P Q : State → Prop} (c : UnitClass)
    (hbefore : ∀ {c' s t}, c' ≠ c → P s → f c' s = .next t → P t) (hat : ∀ {s t}, P s → f c s = .next t → Q t)
    (hafter : ∀ {c' s t}, c' ≠ c → Q s → f c' s = .next t → Q t) {s t : State} (hs : P s)
    (h : seq (f .mem s) (fun a => seq (f .br a) fun b => seq (f .mul b) (f .int)) = .next t) : Q t := by
  obtain ⟨a, ha, h⟩ := seq_eq_next.1 h
  obtain ⟨b, hb, h⟩ := seq_eq_next.1 h
  obtain ⟨d, hd, h⟩ := seq_eq_next.1 h
  cases c with
  | mem => exact hafter (by decide) (hafter (by decide) (hafter (by decide) (hat hs ha) hb) hd) h
  | br => exact hafter (by decide) (hafter (by decide) (hat (hbefore (by decide) hs ha) hb) hd) h
  | mul => exact hafter (by decide) (hat (hbefore (by decide) (hbefore (by decide) hs ha) hb) hd) h
  | int => exact hat (hbefore (by decide) (hbefore (by decide) (hbefore (by decide) hs ha) hb) hd) h

theorem issue_keeps {P : State → Prop} (hissue : ∀ {c s t}, P s → issueClass c s = .next t → P t) {s t : State} (hs : P s)
    (h : issue s = .next t) : P t :=
  classes_reach (f := issueClass) .mem (fun _ => hissue) hissue (fun _ => hissue) hs h

theorem evalUnits_keeps {P : State → Prop} (hunit : ∀ {c s t}, P s → evalUnit c s = .next t → P t) {s t : State} (hs : P s)
    (h : evalUnits s = .next t) : P t :=
  classes_reach (f := evalUnit) .mem (fun _ => hunit) hunit (fun _ => hunit) hs h

/-- An operation in a unit is not issued and not dispatched again. -/
theorem front_headInStage {c : UnitClass} {k : Nat} {op : UnitLatch} {s a b d : State} (hs : HeadInStage c k op s)
    (ha : issue s = .next a) (hb : dispatch a = .next b) (hd : fetch b = .next d) : HeadInStage c k op (bumpCycle d) := by
  obtain ⟨hget, hrob⟩ := issue_keeps issueClass_headInStage hs ha
  obtain ⟨pc, f, l, rfl⟩ := fetch_frame hd
  have hb' : HeadInStage c k op b := ⟨dispatch_unitStages hb c ▸ hget, hrob.trans (dispatch_robHead hb).symm⟩
  cases c <;> exact hb'

theorem front_headComplete {s a b d : State} (hinv : EngineInv s) (hs : HeadComplete s) (ha : issue s = .next a)
    (hb : dispatch a = .next b) (hd : fetch b = .next d) : HeadComplete (bumpCycle d) := by
  have hinva := issue_keeps issueClass_engineInv hinv ha
  have hsa := issue_keeps issueClass_headComplete hs ha
  obtain ⟨pc, f, l, rfl⟩ := fetch_frame hd
  exact (dispatch_keepsInstr hinva hb _).headComplete (dispatch_robHead hb) hsa

theorem front_headAwaits {s a b d : State} (hinv : EngineInv s) (hs : HeadAwaits s) (ha : issue s = .next a)
    (hb : dispatch a = .next b) (hd : fetch b = .next d) : HeadAwaits (bumpCycle d) := by
  have hinva := issue_keeps issueClass_engineInv hinv ha
  have hsa := issue_keeps issueClass_headAwaits hs ha
  obtain ⟨pc, f, l, rfl⟩ := fetch_frame hd
  exact (dispatch_keepsInstr hinva hb _).headAwaits (dispatch_robHead hb) hsa

/-! ### From place to place -/

/-- How many stages a unit has (R195). -/
def depth : UnitClass → Nat
  | .int => Config.intDepth
  | .mul => Config.mulDepth
  | .br => Config.brDepth
  | .mem => Config.memDepth

theorem depth_pos (c : UnitClass) : 0 < depth c := by cases c <;> exact Nat.succ_pos _

theorem EngineInv.length_unitStages {s : State} (hs : EngineInv s) (c : UnitClass) : (unitStages c s).length = depth c := by
  obtain ⟨-, -, -, -, -, hint, hmul, hbr, hmem, -⟩ := hs.shape
  cases c with
  | int => exact hint
  | mul => exact hmul
  | br => exact hbr
  | mem => exact hmem

section
variable {s t : State} (hs : EngineInv s) (h : IdleTick s t)
include hs h

/-- A head in the issue queue is issued in the next tick (R181, R182, R361). -/
theorem IdleTick.issued {c : UnitClass} (hq : HeadQueued c s) : ∃ op, HeadInStage c 0 op t := by
  obtain ⟨a, b, d, e, f, ha, hb, hd, he, hf, rfl⟩ := h.stages
  have hinva := lsqLoadAccess_engineInv hs ha
  have hqa := (lsqLoadAccess_wakesOnly ha).headQueued (lsqLoadAccess_flightOnly ha).robHead hq
  have hwake : ∀ {c' s t}, HeadQueued c s → evalUnit c' s = .next t → HeadQueued c t := fun hq h =>
    (evalUnit_wakesOnly h).headQueued (evalUnit_flightOnly h).robHead hq
  obtain ⟨hinvb, hqb, hfree⟩ : EngineInv b ∧ HeadQueued c b ∧ stage1Free c b = true :=
    classes_reach (f := evalUnit) (P := fun s => EngineInv s ∧ HeadQueued c s)
      (Q := fun s => EngineInv s ∧ HeadQueued c s ∧ stage1Free c s = true) c
      (fun _ ⟨hi, hq⟩ h => ⟨evalUnit_engineInv hi h, hwake hq h⟩)
      (fun ⟨hi, hq⟩ h => ⟨evalUnit_engineInv hi h, hwake hq h, stage1Free_evalUnit h⟩)
      (fun hc ⟨hi, hq, hfree⟩ h => ⟨evalUnit_engineInv hi h, hwake hq h, by
        rw [stage1Free, unitStages_evalUnit_ne (Ne.symm hc) h]; exact hfree⟩)
      ⟨hinva, hqa⟩ hb
  obtain ⟨op, hop⟩ : ∃ op, HeadInStage c 0 op d :=
    classes_reach (f := issueClass) (P := fun s => EngineInv s ∧ HeadQueued c s ∧ stage1Free c s = true) c
      (fun {c' s t} hc ⟨hi, hq, hfree⟩ h => ⟨issueClass_engineInv hi h, issueClass_headQueued (Ne.symm hc) hq h, by
        rw [stage1Free, unitStages_issueClass_ne (Ne.symm hc) h]; exact hfree⟩)
      (fun ⟨hi, hq, hfree⟩ h => issueClass_headIssued hi hfree hq (hi.length_unitStages c ▸ depth_pos c) h)
      (fun _ ⟨op, hop⟩ h => ⟨op, issueClass_headInStage hop h⟩) ⟨hinvb, hqb, hfree⟩ hd
  obtain ⟨hget, hrob⟩ := hop
  obtain ⟨pc, r, l, rfl⟩ := fetch_frame hf
  have he' : HeadInStage c 0 op e := ⟨dispatch_unitStages he c ▸ hget, hrob.trans (dispatch_robHead he).symm⟩
  exact ⟨op, by cases c <;> exact he'⟩

/-- An operation that is not in its unit's last stage moves one stage on (R196, R361). -/
theorem IdleTick.moved {c : UnitClass} {k : Nat} {op : UnitLatch} (hop : HeadInStage c k op s) (hk : k + 1 < depth c) :
    HeadInStage c (k + 1) op.moved t := by
  obtain ⟨a, b, d, e, f, ha, hb, hd, he, hf, rfl⟩ := h.stages
  have hinva := lsqLoadAccess_engineInv hs ha
  have hopb : HeadInStage c (k + 1) op.moved b :=
    classes_reach (f := evalUnit) (P := fun s => EngineInv s ∧ HeadInStage c k op s) c
      (fun hc ⟨hi, hop⟩ h => ⟨evalUnit_engineInv hi h, evalUnit_headInStage_ne (Ne.symm hc) hop h⟩)
      (fun ⟨hi, hop⟩ h => evalUnit_headInStage_next (hi.length_unitStages c ▸ hk) hop h)
      (fun hc hop h => evalUnit_headInStage_ne (Ne.symm hc) hop h) ⟨hinva, lsqLoadAccess_headInStage hop ha⟩ hb
  exact front_headInStage hopb hd he hf

/-- The last stage of another unit than MEM completes the head (R199, R253). -/
theorem IdleTick.executed {c : UnitClass} {k : Nat} {op : UnitLatch} (hc : c ≠ .mem) (hop : HeadInStage c k op s)
    (hk : k + 1 = depth c) : HeadComplete t := by
  obtain ⟨a, b, d, e, f, ha, hb, hd, he, hf, rfl⟩ := h.stages
  have hinva := lsqLoadAccess_engineInv hs ha
  have hcomplete : HeadComplete b :=
    classes_reach (f := evalUnit) (P := fun s => EngineInv s ∧ HeadInStage c k op s) c
      (fun hc ⟨hi, hop⟩ h => ⟨evalUnit_engineInv hi h, evalUnit_headInStage_ne (Ne.symm hc) hop h⟩)
      (fun ⟨hi, hop⟩ h => evalUnit_completes hc (hi.length_unitStages c ▸ hk) hop h)
      (fun _ => evalUnit_headComplete) ⟨hinva, lsqLoadAccess_headInStage hop ha⟩ hb
  exact front_headComplete (evalUnits_keeps evalUnit_engineInv hinva hb) hcomplete hd he hf

/-- The memory unit completes a store and an access out of range; a load in range then waits for its access (R284, R290). -/
theorem IdleTick.addressed {op : UnitLatch} {a : Word} (hop : HeadInStage .mem 0 op s) (ha : memAddress op = some a) :
    if isStoreOp op.opcode = false ∧ inData s a = true then HeadAwaits t else HeadComplete t := by
  obtain ⟨x, b, d, e, f, hx, hb, hd, he, hf, rfl⟩ := h.stages
  have hinvx := lsqLoadAccess_engineInv hs hx
  have hin : inData x a = inData s a := by rw [inData, inData, (lsqLoadAccess_keepsCommitted hx).cfg]
  have hinvb := evalUnits_keeps evalUnit_engineInv hinvx hb
  obtain ⟨y, hy, hrest⟩ := seq_eq_next.1 hb
  have hmem := evalUnit_mem_head hinvx (hinvx.length_unitStages .mem).symm (lsqLoadAccess_headInStage hop hx) ha hy
  rw [hin] at hmem
  obtain ⟨z, hz, hrest⟩ := seq_eq_next.1 hrest
  obtain ⟨w, hw, hrest⟩ := seq_eq_next.1 hrest
  split
  next hload =>
    rw [if_pos hload] at hmem
    have hwaits := evalUnit_headAwaits (by decide) (evalUnit_headAwaits (by decide) (evalUnit_headAwaits (by decide) hmem hz) hw) hrest
    exact front_headAwaits hinvb hwaits hd he hf
  next hload =>
    rw [if_neg hload] at hmem
    exact front_headComplete hinvb (evalUnit_headComplete (evalUnit_headComplete (evalUnit_headComplete hmem hz) hw) hrest) hd he hf

/-- A load at the head that waits is performed in the next tick (R287). -/
theorem IdleTick.accessed (hw : HeadAwaits s) : HeadComplete t := by
  obtain ⟨a, b, d, e, f, ha, hb, hd, he, hf, rfl⟩ := h.stages
  have hinva := lsqLoadAccess_engineInv hs ha
  exact front_headComplete (evalUnits_keeps evalUnit_engineInv hinva hb)
    (evalUnits_keeps evalUnit_headComplete (lsqLoadAccess_headComplete hs hw ha) hb) hd he hf

end

/-! ### An engine under way -/

/-- The engine is in step with the reference state `r`, has not ended, and has `n` ticks left of a cycle budget, if it has one. -/
structure Underway (n : Nat) (r : RefState) (s : State) : Prop where
  follows : Follows s r
  halted : s.halted = false
  error : s.error = none
  budget : ∀ b ∈ s.cfg.cycleBudget, s.cycle + n ≤ b

section
variable {n : Nat} {r : RefState} {s : State}

theorem Underway.not_done (h : Underway (n + 1) r s) (hbusy : s.robCount ≠ 0 ∨ s.dr ≠ none) : done s = false := by
  have hdrained : drained s = false := by
    obtain h0 | hd := hbusy
    · simp [drained, h0]
    · obtain ⟨d, hd⟩ := Option.ne_none_iff_exists'.1 hd
      simp [drained, hd]
  have hbudget : budgetSpent s = false := by
    unfold budgetSpent
    split
    next b hb =>
      have := h.budget b hb
      simp only [decide_eq_false_iff_not]
      omega
    next => rfl
  simp [done, h.halted, h.error, hdrained, hbudget]

/-- An incomplete head is in the ROB, so the ROB is not empty, and commit waits (R321). -/
theorem Underway.idles (h : Underway (n + 1) r s) {e : RobEntry} (he : robAt s s.robHead = some e) (hc : e.complete = false) :
    ∃ t, IdleTick s t := by
  have hpos : 0 < s.robCount := by
    simpa [show ringAt s.rob s.robHead = some e from he] using h.follows.inv.coupled.queues.rob.head_occupied
  obtain ⟨t, ht⟩ := invNeverStops s h.follows.inv
  exact ⟨t, h.not_done (.inl hpos.ne'), by simp [commit, he, hc], ht⟩

/-- A tick in which nothing commits leaves the engine in step with the same reference state. -/
theorem Underway.next {t : State} (h : Underway (n + 1) r s) (ht : IdleTick s t) : Underway n r t := by
  obtain ⟨b, hk, rfl⟩ := ht.keepsCommitted
  obtain ⟨r', ⟨-, -, k, hk', hr'⟩, hf⟩ := step_follows h.follows ht.step
  obtain rfl : k = 0 := by
    have : b.committed = s.committed + k := hk'
    rw [hk.committed] at this
    omega
  obtain rfl := Option.some.inj hr'
  refine ⟨hf, hk.halted.trans h.halted, hk.error.trans h.error, fun c hc => ?_⟩
  have := h.budget c (hk.cfg ▸ hc)
  change b.cycle + 1 + n ≤ c
  rw [hk.cycle]
  omega

end

end Sys2Proof.Machine

/-! ## One instruction through the engine

SUPPORT. With nothing older in flight an instruction is fetched, dispatched, issued and executed without a tick lost, and commits or
raises its error in the tick of R416. -/

namespace Sys2Proof.Machine

/-! ### Until the head is complete -/

section
variable {n : Nat} {r : RefState} {s : State} (h : Underway (n + 1) r s)
include h

theorem Underway.issues {c : UnitClass} (hq : HeadQueued c s) :
    ∃ t op, IdleTick s t ∧ Underway n r t ∧ HeadInStage c 0 op t := by
  have hs := h.follows.inv
  obtain ⟨x, hx, hr, -⟩ := id hq
  have hflight : s.robHead ∈ flightRobs s :=
    List.mem_append_left _ (List.mem_map.2 ⟨x, mem_iqEntries.2 hx, hr⟩)
  obtain ⟨e, he, hc⟩ := hs.coupled.robAt_of_mem_flightRobs hflight
  obtain ⟨t, ht⟩ := h.idles he hc
  obtain ⟨op, hop⟩ := ht.issued hs hq
  exact ⟨t, op, ht, h.next ht, hop⟩

theorem Underway.executes {c : UnitClass} {k : Nat} {op : UnitLatch} (hop : HeadInStage c k op s) :
    ∃ t, IdleTick s t ∧ Underway n r t := by
  have hflight : s.robHead ∈ flightRobs s := List.mem_append_right _
    (List.mem_map.2 ⟨op, mem_unitOps.2 ⟨c, List.mem_of_getElem? hop.1⟩, hop.2⟩)
  obtain ⟨e, he, hc⟩ := h.follows.inv.coupled.robAt_of_mem_flightRobs hflight
  obtain ⟨t, ht⟩ := h.idles he hc
  exact ⟨t, ht, h.next ht⟩

theorem Underway.accesses (hw : HeadAwaits s) : ∃ t, IdleTick s t ∧ Underway n r t ∧ HeadComplete t := by
  have hs := h.follows.inv
  obtain ⟨l, q, hl, hr, -⟩ := id hw
  obtain ⟨e, he, -⟩ := hs.coupled.order.owner hs.coupled.queues hl
  rw [hr] at he
  have hc := (hs.coupled.instr _ e he List.not_mem_nil).complete.2 (.inr hw)
  obtain ⟨t, ht⟩ := h.idles he hc
  exact ⟨t, ht, h.next ht, ht.accessed hs hw⟩

end

/-- From stage `k` of another unit than MEM, with `j` stages after it (R361). -/
theorem Underway.completes_from_stage {c : UnitClass} (hc : c ≠ .mem) {m : Nat} {r : RefState} (j : Nat) {k : Nat} {op : UnitLatch}
    {s : State} (hk : k + j + 1 = depth c) (h : Underway (m + j + 1) r s) (hop : HeadInStage c k op s) :
    ∃ t, IdleTicks (j + 1) s t ∧ Underway m r t ∧ HeadComplete t := by
  induction j generalizing k op s with
  | zero =>
    obtain ⟨t, ht, hm⟩ := h.executes hop
    exact ⟨t, ht.ticks, hm, ht.executed h.follows.inv hc hop hk⟩
  | succ j ih =>
    obtain ⟨t, ht, hm⟩ := h.executes hop
    have hnext := ht.moved h.follows.inv hop (by omega)
    obtain ⟨u, hu, hend⟩ := ih (by omega) hm hnext
    exact ⟨u, .head ht hu, hend⟩

/-- The operation of the head has the operands of the reference state (R340). -/
theorem Follows.runs_head {s : State} {r : RefState} (h : Follows s r) {c : UnitClass} {k : Nat} {op : UnitLatch}
    (hop : HeadInStage c k op s) {i : Instr} (hi : instrAt s r.pc = some i) : op.Runs i ∧ RefOperands r i op.vals := by
  obtain ⟨z, htracked, hshows⟩ := h.flight
  have hmem := List.mem_of_getElem? hop.1
  obtain ⟨i', hops, hruns⟩ := htracked.unit c op hmem
  obtain ⟨e, he, -⟩ := robLink_iff.1 (h.inv.coupled.unit c op hmem).rob
  rw [hop.2] at he hops
  have hi' := instrIn_head he hops.instr
  rw [head_pc h.inv htracked he, hi] at hi'
  obtain rfl := Option.some.inj hi'
  exact ⟨hruns, refOperands_of_head h.inv hshows hops (instrAt_mem hi)⟩

/-- Nothing in flight is an instruction boundary (R145, R347). -/
theorem atBoundary_of_empty {s : State} (hs : EngineInv s) (h0 : s.robCount = 0) : AtBoundary s := by
  obtain ⟨p, hp⟩ := pickFree_of_robCount_eq_zero hs h0
  obtain ⟨hnodup, -, -, -, hrat, -⟩ := hs.coupled.rename
  rw [owned_of_empty h0] at hnodup
  rw [robInOrder_eq_nil h0] at hrat
  obtain ⟨hprf, hfree, -, hrrat, -⟩ := hs.shape
  exact ⟨hprf, hfree, hrrat, hrat, hnodup, fun q hq => free_of_mem_owned hs (by rwa [owned_of_empty h0]), by rw [hp]; rfl⟩

section
variable {i : Instr} {s : State}

/-- The memory unit computes the address that the meaning of a load reads from (R284). -/
theorem memAddress_of_loadAddress (hb : AtBoundary s) {vs : List Word} {a : Word} (h : RefOperands (refView s) i vs)
    (ha : loadAddress i s = some a) : memAddress (operationOf i vs) = some a := by
  have hreg : ∀ k, Ref.reg (refView s) k = readReg s k := reg_advancedView hb
  cases i with
  | load | ldr =>
    obtain rfl := h.registers rfl
    rw [← ha]
    simp only [loadAddress, ← hreg]
    rfl
  | add | sub | and | or | xor | mul | movc | store | str | bz | bnz | jump | halt => cases ha

/-- Two ticks for Fetch and Dispatch, one for Issue, one per stage, one for Commit (R361, R416). -/
theorem soloTicks_of_noLoad (h : loadAddress i s = none) : soloTicks i s = depth (unitClass i.opcode) + 4 := by
  cases i with
  | load | ldr => cases h
  | add | sub | and | or | xor | mul | movc | store | str | bz | bnz | jump | halt => rfl

/-- A load that is performed takes one tick more (R416). -/
theorem soloTicks_of_load {a : Word} (h : loadAddress i s = some a) : unitClass i.opcode = .mem ∧ isStoreOp i.opcode = false ∧
    soloTicks i s = if inData s a then 6 else 5 := by
  cases i with
  | load | ldr => exact ⟨rfl, rfl, by simp [soloTicks, h]⟩
  | add | sub | and | or | xor | mul | movc | store | str | bz | bnz | jump | halt => cases h

theorem isStoreOp_of_mem (h : loadAddress i s = none) (hc : unitClass i.opcode = .mem) : isStoreOp i.opcode = true := by
  cases i with
  | store | str => rfl
  | load | ldr => cases h
  | add | sub | and | or | xor | mul | movc | bz | bnz | jump | halt => cases hc

theorem five_le_soloTicks (i : Instr) (s : State) : 5 ≤ soloTicks i s := by
  cases hload : loadAddress i s with
  | none =>
    have := depth_pos (unitClass i.opcode)
    rw [soloTicks_of_noLoad hload]
    omega
  | some a =>
    obtain ⟨-, -, hticks⟩ := soloTicks_of_load hload
    rw [hticks]
    split <;> decide

section
variable {n : Nat} {s₂ : State} (hn : n + 3 = soloTicks i s) (h : Underway (n + 1) (refView s) s₂)
  (hq : HeadQueued (unitClass i.opcode) s₂)
include hn h hq

theorem Underway.completes_in_unit (hc : unitClass i.opcode ≠ .mem) :
    ∃ t, IdleTicks n s₂ t ∧ Underway 1 (refView s) t ∧ HeadComplete t := by
  have hload : loadAddress i s = none := Option.eq_none_iff_forall_ne_some.2 fun a ha => hc (soloTicks_of_load ha).1
  rw [soloTicks_of_noLoad hload] at hn
  obtain ⟨j, hj⟩ : ∃ j, j + 1 = depth (unitClass i.opcode) := ⟨_, Nat.sub_add_cancel (depth_pos _)⟩
  obtain rfl : n = 1 + j + 1 := by omega
  obtain ⟨t, op, ht, hm, hop⟩ := h.issues hq
  obtain ⟨u, hu, hend⟩ := hm.completes_from_stage hc j (by omega) hop
  exact ⟨u, by simpa [Nat.add_comm] using IdleTicks.head ht hu, hend⟩

theorem Underway.completes_in_memory (hc : unitClass i.opcode = .mem) (hb : AtBoundary s) (hcfg : s₂.cfg = s.cfg)
    (hprog : s₂.prog = s.prog) (hi : instrAt s s.pc = some i) :
    ∃ t, IdleTicks n s₂ t ∧ Underway 1 (refView s) t ∧ HeadComplete t := by
  obtain ⟨m, rfl⟩ : ∃ m, n = m + 2 := Nat.exists_eq_add_of_le' (by have := five_le_soloTicks i s; omega)
  obtain ⟨t, op, ht, hm, hop⟩ := h.issues hq
  obtain ⟨u, hu, hm'⟩ := hm.executes hop
  obtain ⟨b, hk, rfl⟩ := ht.keepsCommitted
  have hcfg' : b.cfg = s.cfg := hk.cfg.trans hcfg
  have hit : instrAt (bumpCycle b) s.pc = some i := (instrAt_congr hcfg' (hk.prog.trans hprog) s.pc).trans hi
  obtain ⟨hruns, hops⟩ := hm.follows.runs_head hop hit
  rw [hc] at hop
  have hin : ∀ a, inData (bumpCycle b) a = inData s a := fun a => by
    change decide (a.toNat < b.cfg.dataMemSize) = _
    rw [hcfg']
    rfl
  cases hload : loadAddress i s with
  | none =>
    obtain ⟨-, a, ha⟩ := memAddress_of_unitClass (op := op) (hruns.opcode ▸ hc)
    have hend := hu.addressed hm.follows.inv hop ha
    rw [hruns.opcode, isStoreOp_of_mem hload hc, if_neg (by simp)] at hend
    obtain rfl : m = 0 := by
      rw [soloTicks_of_noLoad hload, hc] at hn
      have hfive : m + 2 + 3 = 5 := hn
      omega
    exact ⟨u, .head ht hu.ticks, hm', hend⟩
  | some a =>
    have hend := hu.addressed hm.follows.inv hop (hruns.memAddress_eq ▸ memAddress_of_loadAddress hb hops hload)
    obtain ⟨-, hst, hticks⟩ := soloTicks_of_load hload
    rw [hruns.opcode, hst, hin] at hend
    rw [hticks] at hn
    cases ha : inData s a with
    | true =>
      rw [ha, if_pos rfl] at hn
      rw [ha, if_pos ⟨rfl, rfl⟩] at hend
      obtain rfl : m = 1 := by omega
      obtain ⟨v, hv, hm'', hcomplete⟩ := hm'.accesses hend
      exact ⟨v, .head ht (.head hu hv.ticks), hm'', hcomplete⟩
    | false =>
      rw [ha, if_neg (by simp)] at hn
      rw [ha, if_neg (by simp)] at hend
      obtain rfl : m = 0 := by omega
      exact ⟨u, .head ht hu.ticks, hm', hend⟩

end

end

/-! ### Fetch and dispatch -/

/-- With nothing in flight the stages before Fetch come down to dispatch (R360). -/
theorem beforeFetch_of_nothingInFlight {s : State} (h : NothingInFlight s) : beforeFetch s = dispatch s := by
  obtain ⟨-, hlsq, -, -, hiq, hint, hmul, hbr, hmem, -⟩ := h
  have hmem' : evalUnit .mem s = .next s := evalUnit_of_empty hmem
  have hbr' : evalUnit .br s = .next s := evalUnit_of_empty hbr
  have hmul' : evalUnit .mul s = .next s := evalUnit_of_empty hmul
  have hint' : evalUnit .int s = .next s := evalUnit_of_empty hint
  simp only [beforeFetch, evalUnits, issue, lsqLoadAccess_of_empty hlsq, hmem', hbr', hmul', hint', issueClass_of_empty _ hiq, seq_next]

/-- The engine one tick after `i` was fetched from the quiescent engine `s` (R150). -/
def afterFetch (i : Instr) (s : State) : State :=
  { s with dr := some (drOf s.pc i), pc := nextSeq s.pc, lastStall := .none, cycle := s.cycle + 1 }

/-- With nothing in flight the engine shows the state that its view says, and goes on from its pc. -/
theorem follows_refView {s : State} (hs : EngineInv s) (h0 : s.robCount = 0) (hd : s.dr = none) (herr : s.error = none) :
    Follows s (refView s) where
  inv := hs
  flight := by
    refine ⟨s.zsrc, tracked_of_empty hs h0 hd, rfl, rfl, rfl, herr, fun hz => ?_, fun p v hz hv => ?_⟩
    · simp [refView, zeroCond, hz]
    · rw [Holds] at hv
      simp [refView, zeroCond, hz, hv]
  raised e he := by simp [herr] at he

section
variable {i : Instr} {s : State} (h : AboutToRun i s)
include h

theorem AboutToRun.atBoundary : AtBoundary s := by
  obtain ⟨hs, ⟨h0, -⟩, -⟩ := h
  exact atBoundary_of_empty hs h0

theorem AboutToRun.wellFormed : i.wellFormed s.cfg.numArch = true := by
  obtain ⟨⟨⟨-, hprog⟩, -⟩, -, -, -, hi⟩ := h
  exact hprog i (instrAt_mem hi)

theorem AboutToRun.underway : Underway (soloTicks i s) (refView s) s := by
  obtain ⟨hs, ⟨h0, hdr, -⟩, hd, hbudget, -⟩ := h
  obtain ⟨hh, herr⟩ := halted_and_error_of_not_done hd
  exact ⟨follows_refView hs h0 hdr herr, hh, herr, hbudget⟩

theorem AboutToRun.fetches : IdleTick s (afterFetch i s) := by
  have hwf := h.wellFormed
  obtain ⟨hs, ⟨h0, hdr, hrec⟩, hd, -, hi⟩ := h
  exact ⟨hd, commit_of_empty h0,
    stepFetchesInstructionAtPc s i (nothingInFlight_of_robCount_eq_zero hs h0) hrec hdr hd hi hwf⟩

end

/-- In an empty machine the latch's instruction is dispatched into the ROB's head slot (R145, R153). -/
theorem Underway.dispatches {n : Nat} {r : RefState} {s : State} {d : DrLatch} (h : Underway (n + 1) r s) (h0 : s.robCount = 0)
    (hd : s.dr = some d) : ∃ src u, stallReason d.opcode s = .none ∧ fetch (dispatchWith d src s) = .next u ∧
      IdleTick s (bumpCycle u) ∧ HeadQueued (unitClass d.opcode) (bumpCycle u) := by
  have hs := h.follows.inv
  have hdone := h.not_done (.inr (by rw [hd]; nofun))
  have hwait := commit_of_empty h0
  have hroom := stallReason_of_robCount_eq_zero hs h0 d.opcode
  obtain ⟨x, hx⟩ := dispatch_answers hs
  have hb := (beforeFetch_of_nothingInFlight (nothingInFlight_of_robCount_eq_zero hs h0)).trans hx
  obtain ⟨u, hu⟩ := fetch_answers (dispatch_engineInv hs hx)
  have hstep : IdleTick s (bumpCycle u) := ⟨hdone, hwait, step_of_stages hdone hwait h.error hb hu⟩
  obtain ⟨hno, -⟩ | ⟨d', hd', ⟨hstall, -⟩ | ⟨src, -, -, rfl⟩⟩ := dispatch_eq_next hx
  · simp [hd] at hno
  · obtain rfl := Option.some.inj (hd.symm.trans hd')
    exact absurd hroom hstall
  · obtain rfl := Option.some.inj (hd.symm.trans hd')
    refine ⟨src, u, hroom, hu, hstep, newIq d src s, ?_, ?_, rfl⟩
    all_goals obtain ⟨pc, f, l, rfl⟩ := fetch_frame hu
    · obtain ⟨q, -, -, hiq⟩ := dispatchWith_iq hroom src
      have hmem := (mem_iqEntries_dispatchWith (src := src) hroom).2 (.inl rfl)
      exact mem_iqEntries.1 hmem
    · change s.robTail = (dispatchWith d src s).robHead
      have htail := hs.coupled.queues.robTail
      rw [h0, Nat.add_zero, Nat.mod_eq_of_lt hs.coupled.queues.rob.head] at htail
      rw [htail, dispatchWith_eq]

/-- From the fetch of `i` to its completion: one tick before R416 has it retire or raise its error (R361, R416). -/
theorem AboutToRun.completes {i : Instr} {s : State} (h : AboutToRun i s) : ∃ src u v n, n + 3 = soloTicks i s ∧
    stallReason i.opcode (afterFetch i s) = .none ∧
    fetch (dispatchWith (drOf s.pc i) src (afterFetch i s)) = .next u ∧ IdleTicks 2 s (bumpCycle u) ∧
    IdleTicks n (bumpCycle u) v ∧ Underway 1 (refView s) v ∧ HeadComplete v := by
  have hb := h.atBoundary
  have hticks := five_le_soloTicks i s
  obtain ⟨n, hn⟩ : ∃ n, n + 3 = soloTicks i s := ⟨_, Nat.sub_add_cancel (by omega)⟩
  have h₀ : Underway (n + 2 + 1) (refView s) s := hn ▸ h.underway
  have h₁ : Underway (n + 2) (refView s) (afterFetch i s) := h₀.next h.fetches
  obtain ⟨hs, ⟨h0, -⟩, -, -, hi⟩ := id h
  obtain ⟨src, u, hroom, hu, htick, hq⟩ := h₁.dispatches h0 (d := drOf s.pc i) rfl
  have h₂ := h₁.next htick
  obtain ⟨x, hk, hx⟩ := htick.keepsCommitted
  obtain ⟨v, hv, hend⟩ : ∃ t, IdleTicks n (bumpCycle u) t ∧ Underway 1 (refView s) t ∧ HeadComplete t := by
    by_cases hc : unitClass i.opcode = .mem
    · exact h₂.completes_in_memory hn hq hc hb (hx ▸ hk.cfg) (hx ▸ hk.prog) hi
    · exact h₂.completes_in_unit hn hq hc
  exact ⟨src, u, v, n, hn, hroom, hu, .head h.fetches htick.ticks, hv, hend⟩

/-! ### The tick after completion -/

/-- Commit of a complete head: it raises the fault recorded, retires, or retires and flushes (R322 to R328). -/
theorem commit_of_complete {s : State} {e : RobEntry} (hs : EngineInv s) (h0 : s.robCount ≠ 0) (he : robAt s s.robHead = some e)
    (hc : e.complete = true) :
    (e.fault = true ∧ commit s = .next (raiseAddressOutOfRange e.pc e.faultAddr s)) ∨
    (e.fault = false ∧ e.mispredicted = false ∧ commit s = .next (committedHead e s)) ∨
    (e.fault = false ∧ e.mispredicted = true ∧ ∃ ck, s.bis.head? = some ck ∧ commit s = .next (flushState ck
      (branchNext e.pc e.actTaken e.actTarget) { committedHead e s with
        free := (robDests (committedHead e s).rob).foldl (fun l p => l.set p true) (committedHead e s).free })) := by
  cases hf : e.fault with
  | true => exact .inl ⟨rfl, by simp [commit, h0, he, hc, hf]⟩
  | false =>
    cases hm : e.mispredicted with
    | false => exact .inr (.inl ⟨rfl, rfl, commit_of_head hs h0 he hc hf hm⟩)
    | true =>
      obtain ⟨ck, hck, -, hcommit⟩ := commit_of_mispredicted hs h0 he hc hf hm
      exact .inr (.inr ⟨rfl, rfl, ck, hck, hcommit⟩)

/-- The tick of a complete head: one instruction commits, or its error is raised and nothing commits (R320, R322, R340). -/
theorem Underway.ends {s t : State} {r r₁ : RefState} (h : Underway 1 r s) (hc : HeadComplete s) (hstep : step s = .next t)
    (hr₁ : Ref.step? s.cfg s.prog r = some r₁) :
    (t.error = none ∧ t.committed = s.committed + 1 ∧ Follows t r₁) ∨
    (t.error ≠ none ∧ t.error = r₁.error ∧ t.committed = s.committed ∧ Follows t r) := by
  obtain ⟨e, he, hc⟩ := hc
  have hs := h.follows.inv
  have hpos : 0 < s.robCount := by simpa [show ringAt s.rob s.robHead = some e from he] using hs.coupled.queues.rob.head_occupied
  obtain ⟨r', ⟨-, -, k, hk, hr'⟩, hf⟩ := step_follows h.follows hstep
  obtain ⟨a, b, ha, hkeep, rfl⟩ := tick_keepsCommitted hstep (h.not_done (.inl hpos.ne'))
  have hcommitted : (bumpCycle b).committed = a.committed := hkeep.committed
  have herror : (bumpCycle b).error = a.error := hkeep.error
  rw [hcommitted] at hk
  have hretired : a.committed = s.committed + 1 → a.error = none →
      (bumpCycle b).error = none ∧ (bumpCycle b).committed = s.committed + 1 ∧ Follows (bumpCycle b) r₁ := fun hone hno => by
    obtain rfl : k = 1 := by omega
    rw [Ref.after, hr₁] at hr'
    obtain rfl := Option.some.inj hr'
    exact ⟨herror.trans hno, hcommitted.trans hone, hf⟩
  obtain ⟨-, hcommit⟩ | ⟨-, -, hcommit⟩ | ⟨-, -, ck, -, hcommit⟩ := commit_of_complete hs hpos.ne' he hc
  all_goals obtain rfl := Host.Outcome.next.inj (hcommit.symm.trans ha)
  · have hk : s.committed = s.committed + k := hk
    obtain rfl : k = 0 := by omega
    obtain rfl := Option.some.inj hr'
    obtain ⟨r'', hr'', herr⟩ := hf.raised _ herror
    have hcfg : (bumpCycle b).cfg = s.cfg := hkeep.cfg
    have hprog : (bumpCycle b).prog = s.prog := hkeep.prog
    rw [hcfg, hprog, hr₁] at hr''
    obtain rfl := Option.some.inj hr''
    exact .inr ⟨by rw [herror]; nofun, herror.trans herr.symm, hcommitted, hf⟩
  · exact .inl (hretired rfl h.error)
  · exact .inl (hretired rfl h.error)

/-! ### The meaning of the instruction -/

/-- What the meaning of `i` does to `s`, by kind: a destination, a word, a branch, HALT, or the error (R220). -/
inductive ExecEffect (i : Instr) (s t : State) : Prop
  | dest (hd : hasDest i.opcode = true) (v : Word) (h : WritesDest i.toRecord.rd v s t)
  | word (hst : isStoreOp i.opcode = true) (a v : Word) (h : WritesWord a v s t)
  | branch (hbr : isBranch i.opcode = true) (taken : Bool) (target : Word) (h : BranchesTo (branchNext s.pc taken target) s t)
      (htrain : SamePrediction (btbUpdate s.pc taken target s) t)
      (hout : ∀ vs, RefOperands (refView s) i vs → branchOutcome (operationOf i vs) s.pc = some (taken, target))
  | halt (hi : i = .halt) (h : t = retired (nextSeq s.pc) (setHalted s))
  | raised (hu : usesLsq i.opcode = true) (a : Word) (h : t = raisedAt a s)

section
variable {i : Instr} {s : State} (hwf : i.wellFormed s.cfg.numArch = true)
include hwf

theorem loadFrom_effect (hb : AtBoundary s) (hd : hasDest i.opcode = true) (hu : usesLsq i.opcode = true) (a : Word) :
    ∃ t, ifWellFormed i s (loadFrom i.toRecord.rd a s) = .next t ∧ ExecEffect i s t := by
  by_cases ha : a.toNat < s.cfg.dataMemSize
  · obtain ⟨t, ht, hw⟩ := loadFrom_writesDest hwf hb ((drOf_registers (pc := 0) hwf).1 hd) ha
    exact ⟨t, ht, .dest hd _ hw⟩
  · exact ⟨_, (ifWellFormed_of hwf).trans (loadFrom_of_outOfRange (Nat.not_lt.1 ha) _), .raised hu a rfl⟩

theorem storeTo_effect (hm : s.dmem.wf = true) (hst : isStoreOp i.opcode = true) (a v : Word) :
    ∃ t, ifWellFormed i s (storeTo a v s) = .next t ∧ ExecEffect i s t := by
  by_cases ha : a.toNat < s.cfg.dataMemSize
  · obtain ⟨t, ht, hw⟩ := storeTo_writesWord hwf hm ha v
    exact ⟨t, ht, .word hst a v hw⟩
  · exact ⟨_, (ifWellFormed_of hwf).trans (storeTo_of_outOfRange (Nat.not_lt.1 ha) v), .raised (usesLsq_of_isStoreOp hst) a rfl⟩

theorem retireBranch_effect (hbr : isBranch i.opcode = true) (taken : Bool) (target : Word)
    (hout : ∀ vs, RefOperands (refView s) i vs → branchOutcome (operationOf i vs) s.pc = some (taken, target)) :
    ∃ t, ifWellFormed i s (retireBranch taken target s) = .next t ∧ ExecEffect i s t := by
  obtain ⟨t, ht, hto, htrain⟩ := ifWellFormed_branchesTo hwf taken target
  exact ⟨t, ht, .branch hbr taken target hto htrain hout⟩

theorem exec_effect (hb : AtBoundary s) (hm : s.dmem.wf = true) : ∃ t, exec i s = .next t ∧ ExecEffect i s t := by
  have hrd : hasDest (drOf 0 i).opcode = true → (drOf 0 i).rd < s.cfg.numArch := (drOf_registers hwf).1
  cases i with
  | add | sub | and | or | xor | mul | movc =>
    obtain ⟨t, ht, hw⟩ := ifWellFormed_writesDest hwf hb (hrd rfl) _
    exact ⟨t, ht, .dest rfl _ hw⟩
  | load | ldr => exact loadFrom_effect hwf hb rfl rfl _
  | store | str => exact storeTo_effect hwf hm rfl _ _
  | bz | bnz =>
    refine retireBranch_effect hwf rfl _ _ fun vs hvs => ?_
    rw [← show zeroOf vs = zeroCond s from hvs.zero rfl]
    rfl
  | jump rs1 =>
    refine retireBranch_effect hwf rfl _ _ fun vs hvs => ?_
    obtain rfl := hvs.registers rfl
    rw [← show Ref.reg (refView s) rs1 = readReg s rs1 from reg_advancedView hb rs1]
    rfl
  | halt => exact ⟨_, rfl, .halt rfl rfl⟩

end

/-- The meaning counts the instruction, unless it raises the error, which leaves everything but the pc as it is (R220, R387). -/
theorem ExecEffect.progress {i : Instr} {s t : State} (h : ExecEffect i s t) (herr : s.error = none) :
    (t.error = none ∧ t.committed = s.committed + 1) ∨ (usesLsq i.opcode = true ∧ ∃ a, t = raisedAt a s) := by
  cases h with
  | dest _ _ h =>
    obtain ⟨-, -, -, -, hcommitted, -, -, -, -, -, -, herror⟩ := h
    exact .inl ⟨herror.trans herr, hcommitted⟩
  | word _ _ _ h =>
    obtain ⟨-, -, -, -, hcommitted, -, -, -, -, herror⟩ := h
    exact .inl ⟨herror.trans herr, hcommitted⟩
  | branch _ _ _ h =>
    obtain ⟨-, hcommitted, -, -, -, -, herror⟩ := h
    exact .inl ⟨herror.trans herr, hcommitted⟩
  | halt _ h =>
    subst h
    exact .inl ⟨herr, rfl⟩
  | raised hu a h => exact .inr ⟨hu, a, h⟩

/-- An engine in step with a state of the interpreter shows what another shows whose view that state is. -/
theorem Follows.sameArch {s t : State} (h : Follows s (refView t)) (hcommitted : s.committed = t.committed)
    (herror : s.error = t.error) : SameArch s t := by
  obtain ⟨z, -, hshows⟩ := h.flight
  exact ⟨hshows.registers, hshows.dmem, hcommitted, hshows.halted, herror⟩

/-- The meaning of the instruction at the pc is the next state of the interpreter. -/
theorem AboutToRun.exec_agrees {i : Instr} {s : State} (h : AboutToRun i s) : ∃ t, exec i s = .next t ∧ ExecEffect i s t ∧
    Ref.step? s.cfg s.prog (refView s) = some (refView t) := by
  have hb := h.atBoundary
  have hwf := h.wellFormed
  obtain ⟨⟨-, -, -, ⟨hm, -⟩, -⟩, -, hd, -, hi⟩ := h
  obtain ⟨hh, herr⟩ := halted_and_error_of_not_done hd
  obtain ⟨t, ht, heffect⟩ := exec_effect hwf hb hm
  obtain ⟨t', ht', hview, -⟩ := Machine.exec_agrees hb hwf
  obtain rfl := Host.Outcome.next.inj (ht.symm.trans ht')
  exact ⟨t, ht, heffect, hview ▸ step?_of_instrAt hh herr hi⟩

/-- After the ticks of R416 the engine shows what the meaning of the instruction gives. -/
theorem AboutToRun.sameArch {i : Instr} {s t v u : State} (h : AboutToRun i s) (heffect : ExecEffect i s t)
    (hnext : Ref.step? v.cfg v.prog (refView s) = some (refView t)) (hcommitted : v.committed = s.committed)
    (hv : Underway 1 (refView s) v) (hc : HeadComplete v) (hu : step v = .next u) : SameArch u t := by
  obtain ⟨-, -, hd, -⟩ := h
  obtain ⟨-, herr⟩ := halted_and_error_of_not_done hd
  have hprogress := heffect.progress herr
  obtain ⟨hno, hone, hf⟩ | ⟨hsome, heq, hsame, hf⟩ := hv.ends hc hu hnext
  · obtain ⟨z, -, hshows⟩ := hf.flight
    have hterr : t.error = none := hshows.error
    obtain ⟨-, hcount⟩ | ⟨-, a, rfl⟩ := hprogress
    · exact hf.sameArch (by rw [hone, hcount, hcommitted]) (hno.trans hterr.symm)
    · cases hterr
  · have hterr : u.error = t.error := heq
    obtain ⟨hnone, -⟩ | ⟨-, a, rfl⟩ := hprogress
    · exact absurd (hterr.trans hnone) hsome
    · obtain ⟨z, -, hshows⟩ := hf.flight
      exact ⟨hshows.registers, hshows.dmem, hsame.trans hcommitted, hshows.halted, hterr⟩

/-- The run of R416: two ticks to the ROB, the ticks to completion, and the tick of commit. -/
theorem AboutToRun.runs {i : Instr} {s : State} (h : AboutToRun i s) : ∃ src x v u n,
    stallReason i.opcode (afterFetch i s) = .none ∧
    fetch (dispatchWith (drOf s.pc i) src (afterFetch i s)) = .next x ∧ IdleTicks 2 s (bumpCycle x) ∧
    IdleTicks n (bumpCycle x) v ∧ Underway 1 (refView s) v ∧ HeadComplete v ∧ step v = .next u ∧
    Host.Core.run core (soloTicks i s) s = .next u := by
  obtain ⟨src, x, v, n, hn, hroom, hx, hs, hv, hunder, hc⟩ := h.completes
  obtain ⟨u, hu⟩ := invNeverStops v hunder.follows.inv
  refine ⟨src, x, v, u, n, hroom, hx, hs, hv, hunder, hc, hu, ?_⟩
  rw [show soloTicks i s = 1 + (n + 2) by omega]
  exact (hs.trans hv).run.trans (run_of_step hu)

/-! ### A word placed on the reset state -/

/-- A word that decodes becomes the program of the reset state (log 8). -/
theorem withFetchWord_reset {w : Nat} {i : Instr} (hw : w < 2 ^ 32) (h : decode (BitVec.ofNat 32 w) = .ok i) :
    State.reset.withFetchWord 32 w = State.initial {} [i] [] [] := by
  have hrow : decodeTableWord 32 w = some i := by rw [decodeTableWord, Nat.mod_eq_of_lt hw, h]
  simp only [State.withFetchWord, hrow]
  rfl

theorem aboutToRun_initial {i : Instr} (hwf : i.wellFormed 16 = true) : AboutToRun i (State.initial {} [i] [] []) := by
  have hoff : codeOffset (State.initial {} [i] [] []) (State.initial {} [i] [] []).pc = 0 := by
    rw [codeOffset]
    exact congrArg BitVec.toNat (BitVec.sub_self _)
  have hrange : inRange (State.initial {} [i] [] []) (State.initial {} [i] [] []).pc = true :=
    inRange_iff.2 (by rw [hoff]; exact ⟨rfl, Nat.one_pos⟩)
  have hinstr : instrAt (State.initial {} [i] [] []) (State.initial {} [i] [] []).pc = some i := by
    obtain ⟨j, hj, hinstr⟩ := instrAt_of_inRange hrange
    rw [hoff] at hj
    exact hinstr.trans hj.symm
  have hdone : done (State.initial {} [i] [] []) = false := by
    rw [done, drained, hrange]
    rfl
  exact ⟨engineInv_initial [] (show Params.Legal {} 1 by decide) (by simpa using hwf) rfl nofun, ⟨rfl, rfl, rfl⟩, hdone, nofun, hinstr⟩

end Sys2Proof.Machine

section
open Sys2Proof Sys2Proof.Machine

/-- Settles O57: until the head is complete nothing commits, then the engine takes the interpreter's next step, which is the meaning's. -/
theorem engineRunsNextInstructionAsExec : Obligations.EngineRunsNextInstructionAsExec := by
  refine ⟨fun i s h => ?_, fun w i hw hi => ?_⟩
  · obtain ⟨t, ht, heffect, hnext⟩ := h.exec_agrees
    obtain ⟨src, x, v, u, n, -, -, hx, hv, hunder, hc, hu, hrun⟩ := h.runs
    have hall := hx.trans hv
    obtain ⟨hcfg, hprog⟩ := hall.setup
    rw [← hcfg, ← hprog] at hnext
    exact ⟨t, u, ht, hrun, h.sameArch heffect hnext hall.committed hunder hc hu⟩
  · rw [withFetchWord_reset hw hi]
    exact aboutToRun_initial (decode_wellFormed hi)

end

/-! ## One instruction alone

SUPPORT. While no other instruction can be fetched, the one in flight changes nothing but its own register, its own entries and the
units, so after its commit the engine is as its meaning says (R340, R347, R361). -/

namespace Sys2Proof.Machine

/-! ### Free registers -/

/-- Every free register is as it was, value and valid bit. -/
def KeepsFree (s t : State) : Prop := ∀ p : Nat, s.free[p]? = some true → t.prf[p]? = s.prf[p]?

section
variable {s t : State} (hs : EngineInv s)
include hs

/-- A result goes to the destination of an instruction in the ROB, which is not free (R142). -/
theorem broadcast_keepsFree {r p : Nat} {e : RobEntry} {x : PhysReg} (he : robAt s r = some e) (hp : e.pd = some p)
    (ht : t.prf = s.prf.set p x) : KeepsFree s t := by
  intro q hq
  have hfree := free_of_mem_owned hs (mem_owned_of_dest hs.coupled.queues he hp)
  rw [ht, List.getElem?_set_ne]
  rintro rfl
  simp [hfree] at hq

theorem lsqLoadAccess_keepsFree (h : lsqLoadAccess s = .next t) : KeepsFree s t := by
  obtain ⟨-, rfl⟩ | ⟨l, q, p, e, hl, hp, -, -, he, rfl⟩ := lsqLoadAccess_eq_next h
  · exact fun _ _ => rfl
  · have hq := (mem_lsqInOrder hs.coupled.queues).1 (firstEligible_eq_some hl).1
    obtain ⟨-, hpd, -⟩ := lsqAgrees_iff.1 ((hs.coupled.instr _ e he List.not_mem_nil).lsq l q hq rfl)
    exact broadcast_keepsFree hs he (hpd.symm.trans hp) rfl

theorem aluLast_keepsFree {c : UnitClass} {op : UnitLatch} (hop : lastOp (unitStages c s) = some op) (h : aluLast op s = .next t) :
    KeepsFree s t := by
  obtain ⟨-, e, he, -, hpd, -⟩ := hs.coupled.lastOp hop
  obtain ⟨-, -, ⟨rfl, -⟩ | ⟨v, p, -, hp, -, rfl⟩⟩ := aluLast_eq_next h
  · exact fun _ _ => rfl
  · exact broadcast_keepsFree hs he (hpd.trans hp) rfl

theorem evalUnit_keepsFree {c : UnitClass} (h : evalUnit c s = .next t) : KeepsFree s t := by
  obtain ⟨-, rfl⟩ | ⟨op, u, hop, hu, rfl⟩ := evalUnit_eq_next h
  · exact fun _ _ => by rw [setUnit_prf]
  rw [KeepsFree, setUnit_prf]
  cases c with
  | mem =>
    obtain ⟨a, -, hu⟩ := memLast_eq_next hu
    obtain ⟨l, q, -, -, ⟨-, -, rfl⟩ | ⟨e, -, ⟨-, -, rfl⟩ | ⟨-, rfl⟩⟩⟩ := memRecord_eq_next hu <;> exact fun _ _ => rfl
  | br =>
    obtain ⟨e, taken, target, -, -, rfl⟩ := branchLast_eq_next hu
    exact fun _ _ => rfl
  | mul => exact aluLast_keepsFree hs hop hu
  | int => exact aluLast_keepsFree hs hop hu

omit hs in
theorem issueClass_keepsFree {c : UnitClass} (h : issueClass c s = .next t) : KeepsFree s t := by
  obtain ⟨rfl, -⟩ | ⟨q, e, vs, -, -, -, rfl⟩ := issueClass_eq_next h
  · exact fun _ _ => rfl
  · exact fun _ _ => by rw [setUnit_prf]

end

/-! ### Ticks in which nothing is fetched -/

/-- Nothing is in the latch and nothing can be fetched at the pc (R150, R151). -/
structure FrontIdle (s : State) : Prop where
  latch : s.dr = none
  recovered : s.fetchRecover = false
  pc : inRange s s.pc = false

/-- From `s` to `t` what is in flight has moved on, time has passed, and no register that is free or committed has changed. -/
structure Travels (s t : State) : Prop where
  inv : EngineInv t
  frame : ∃ stall n, FlightOnly { s with lastStall := stall, cycle := n } t
  free : KeepsFree s t
  registers : KeepsRegisters s t

/-- The stall record and the cycle count are the passing of time. -/
theorem Travels.later {s : State} (hs : EngineInv s) (stall : Stall) (n : Nat) : Travels s { s with lastStall := stall, cycle := n } :=
  ⟨hs, ⟨stall, n, _, _, _, _, _, _, _, _, rfl⟩, fun _ _ => rfl, fun _ _ => rfl⟩

theorem Travels.of_bumpCycle {s : State} (hs : EngineInv (bumpCycle s)) : Travels s (bumpCycle s) :=
  .later (s := s) hs s.lastStall (s.cycle + 1)

theorem Travels.trans {s t u : State} (h : Travels s t) (h' : Travels t u) : Travels s u := by
  obtain ⟨-, ⟨_, _, _, _, _, _, _, _, _, _, rfl⟩, hfree, hregs⟩ := h
  obtain ⟨hu, ⟨_, _, _, _, _, _, _, _, _, _, rfl⟩, hfree', hregs'⟩ := h'
  exact ⟨hu, ⟨_, _, _, _, _, _, _, _, _, _, rfl⟩, fun p hp => (hfree' p hp).trans (hfree p hp),
    fun p hp => (hregs' p hp).trans (hregs p hp)⟩

theorem FlightOnly.travels {s t : State} (h : FlightOnly s t) (ht : EngineInv t) (hfree : KeepsFree s t) (hregs : KeepsRegisters s t) :
    Travels s t := ⟨ht, ⟨s.lastStall, s.cycle, h⟩, hfree, hregs⟩

theorem Travels.frontIdle {s t : State} (h : Travels s t) (hs : FrontIdle s) : FrontIdle t := by
  obtain ⟨-, ⟨_, _, _, _, _, _, _, _, _, _, rfl⟩, -⟩ := h
  exact ⟨hs.latch, hs.recovered, hs.pc⟩

theorem FrontIdle.fetch {s : State} (h : FrontIdle s) : fetch s = .next s :=
  fetch_of_noInstr h.recovered h.latch (instrAt_of_not_inRange h.pc)

theorem IdleTick.travels {s t : State} (hs : EngineInv s) (hidle : FrontIdle s) (h : IdleTick s t) : Travels s t := by
  obtain ⟨a, b, c, d, e, ha, hb, hc, hd, he, rfl⟩ := h.stages
  have hload : Travels s a :=
    (lsqLoadAccess_flightOnly ha).travels (lsqLoadAccess_engineInv hs ha) (lsqLoadAccess_keepsFree hs ha)
      (lsqLoadAccess_keepsRegisters hs ha)
  have hunits : Travels s b := evalUnits_keeps (P := Travels s) (fun h hu => h.trans
    ((evalUnit_flightOnly hu).travels (evalUnit_engineInv h.inv hu) (evalUnit_keepsFree h.inv hu) (evalUnit_keepsRegisters h.inv hu)))
    hload hb
  have hissue : Travels s c := issue_keeps (P := Travels s) (fun h hu => h.trans
    ((issueClass_flightOnly hu).travels (issueClass_engineInv h.inv hu) (issueClass_keepsFree hu) (issueClass_keepsRegisters hu)))
    hunits hc
  have hfront := hissue.frontIdle hidle
  obtain rfl := Host.Outcome.next.inj ((dispatch_of_noLatch hfront.latch).symm.trans hd)
  obtain rfl := Host.Outcome.next.inj (((Travels.later hissue.inv .none c.cycle).frontIdle hfront).fetch.symm.trans he)
  exact hissue.trans (.later hissue.inv .none (c.cycle + 1))

theorem IdleTicks.travels {n : Nat} {s t : State} (hs : EngineInv s) (hidle : FrontIdle s) (h : IdleTicks n s t) : Travels s t := by
  induction h with
  | refl => exact .later hs _ _
  | head hd _ ih =>
    have htick := hd.travels hs hidle
    exact htick.trans (ih htick.inv (htick.frontIdle hidle))

/-! ### The instruction complete at the head -/

/-- A branch is predicted taken iff the BTB hits and says so (R162). -/
theorem predict_cases (d : DrLatch) (s : State) : predict d s = (false, 0) ∨
    ∃ target, isBranch d.opcode = true ∧ btbLookup s d.pc = (true, true, target) ∧ predict d s = (true, target) := by
  cases hb : isBranch d.opcode with
  | false => exact .inl (predict_of_not_isBranch hb)
  | true =>
    by_cases hl : (btbLookup s d.pc).1 = false ∨ (btbLookup s d.pc).2.1 = false
    · exact .inl (predict_of_notTaken hb hl)
    · rw [not_or, Bool.not_eq_false, Bool.not_eq_false] at hl
      have hl : btbLookup s d.pc = (true, true, (btbLookup s d.pc).2.2) := Prod.ext hl.1 (Prod.ext hl.2 rfl)
      exact .inr ⟨_, rfl, hl, predict_of_taken hb hl⟩

/-- After its dispatch nothing can be fetched, neither next in sequence nor at a predicted target. -/
theorem AboutToRun.frontIdle {i : Instr} {s : State} (h : AboutToRun i s) (src : List SrcTag) (hnext : inRange s (s.pc + 4) = false)
    (hbranch : isBranch i.opcode = true → ∀ target, btbLookup s s.pc = (true, true, target) → inRange s target = false) :
    FrontIdle (dispatchWith (drOf s.pc i) src (afterFetch i s)) := by
  obtain ⟨-, ⟨-, -, hrec⟩, -⟩ := h
  have hpc := pc_dispatchWith (d := drOf s.pc i) (s := afterFetch i s) src
  have hrange : ∀ a, inRange (dispatchWith (drOf s.pc i) src (afterFetch i s)) a = inRange s a := fun a => by
    rw [dispatchWith_eq]
    rfl
  refine ⟨by rw [dispatchWith_eq], by rw [dispatchWith_eq]; exact hrec, ?_⟩
  rw [hrange, hpc]
  obtain hpred | ⟨target, hb, hl, hpred⟩ := predict_cases (drOf s.pc i) (afterFetch i s)
  · rw [hpred, Bool.and_false]
    exact hnext
  · rw [hpred, hb]
    exact hbranch hb target hl

/-- An entry that is alone is the whole ROB. -/
theorem robInOrder_of_alone {s : State} {e : RobEntry} (hs : EngineInv s) (he : robAt s s.robHead = some e) (h1 : s.robCount = 1) :
    robInOrder s = [(s.robHead, e)] := by
  have hpop : robInOrder s = (s.robHead, e) :: _ := ringEntries_pop hs.coupled.queues.rob he
  rwa [h1] at hpop

/-- `v` has come from the quiescent engine `s` by the dispatch of instruction `i`, alone, and its passage; `e` is its complete entry. -/
structure AloneAtHead (i : Instr) (s v : State) (e : RobEntry) : Prop where
  inv : EngineInv v
  front : FrontIdle v
  entry : robAt v v.robHead = some e
  complete : e.complete = true
  count : v.robCount = 1
  pc : e.pc = s.pc
  opcode : e.opcode = i.opcode
  rd : e.rd = i.toRecord.rd
  pd : e.pd = destReg (drOf s.pc i) s
  setup : v.cfg = s.cfg ∧ v.prog = s.prog
  rrat : v.rrat = s.rrat
  free : v.free = e.pd.elim s.free fun p => s.free.set p false
  prf : ∀ p : Nat, e.pd ≠ some p → v.prf[p]? = s.prf[p]?
  zsrc : v.zsrc = e.zsrcAfter s.zsrc
  bis : ∀ ck ∈ v.bis, ck.zsrc = s.zsrc
  prediction : SamePrediction s v
  path : isBranch i.opcode = false → v.pc = nextSeq s.pc

/-- What the passage of an instruction does not touch. -/
theorem Travels.kept {s t : State} (h : Travels s t) : t.cfg = s.cfg ∧ t.prog = s.prog ∧ t.pc = s.pc ∧ t.free = s.free ∧
    t.rrat = s.rrat ∧ t.zsrc = s.zsrc ∧ t.robCount = s.robCount ∧ t.bis = s.bis ∧ SamePrediction s t := by
  obtain ⟨-, ⟨_, _, _, _, _, _, _, _, _, _, rfl⟩, -⟩ := h
  exact ⟨rfl, rfl, rfl, rfl, rfl, rfl, rfl, rfl, rfl, rfl, rfl⟩

section
variable {i : Instr} {s v : State} {src : List SrcTag} (h : AboutToRun i s)
  (htravels : Travels (dispatchWith (drOf s.pc i) src (afterFetch i s)) v)
include h htravels

/-- Every register but the instruction's own is free or committed after the dispatch, so it is as before (R140). -/
theorem AboutToRun.prf_of_travels {p : Nat} (hp : destReg (drOf s.pc i) s ≠ some p) : v.prf[p]? = s.prf[p]? := by
  obtain ⟨hs, ⟨h0, -⟩, -⟩ := h
  obtain ⟨hcfg, -⟩ := htravels.kept
  have hdest : destReg (drOf s.pc i) (afterFetch i s) = destReg (drOf s.pc i) s := rfl
  have hsame : (dispatchWith (drOf s.pc i) src (afterFetch i s)).prf[p]? = s.prf[p]? ∧
      (dispatchWith (drOf s.pc i) src (afterFetch i s)).free[p]? = s.free[p]? := by
    cases hd : destReg (drOf s.pc i) s with
    | none =>
      obtain ⟨-, -, hfree, hprf⟩ := dispatchWith_noDest (hdest.trans hd) src
      rw [hfree, hprf]
      exact ⟨rfl, rfl⟩
    | some q =>
      obtain ⟨-, -, hfree, hprf⟩ := dispatchWith_dest (hdest.trans hd) src
      have hne : q ≠ p := fun heq => hp (heq ▸ hd)
      rw [hfree, hprf, List.getElem?_set_ne hne, List.getElem?_modify_ne _ _ hne]
      exact ⟨rfl, rfl⟩
  obtain ⟨hprf, hfree⟩ := hsame
  rw [← hprf]
  by_cases hlt : p < s.cfg.numPhys
  · by_cases hmem : p ∈ s.rrat
    · exact htravels.registers p (by rwa [dispatchWith_eq])
    · obtain ⟨-, -, hpool, -⟩ := hs.coupled.rename
      refine htravels.free p (hfree.trans ?_)
      rw [hpool p hlt, owned_of_empty h0, decide_eq_true hmem]
  · obtain ⟨hlen, -⟩ := hs.shape
    obtain ⟨hlen', -⟩ := htravels.inv.shape
    rw [hcfg, dispatchWith_eq] at hlen'
    have hout := Nat.not_lt.1 hlt
    rw [hprf, List.getElem?_eq_none (hlen'.trans_le hout), List.getElem?_eq_none (hlen.trans_le hout)]

theorem AboutToRun.aloneAtHead (hroom : stallReason i.opcode (afterFetch i s) = .none)
    (hfront : FrontIdle (dispatchWith (drOf s.pc i) src (afterFetch i s)))
    (hunder : Underway 1 (refView s) v) (hc : HeadComplete v) : ∃ e, AloneAtHead i s v e := by
  obtain ⟨hs, ⟨h0, -⟩, -, -, hi⟩ := id h
  have hv := htravels.inv
  obtain ⟨hcfg, hprog, hvpc, hfree, hrrat, hzsrc, hcount, hvbis, hpred⟩ := htravels.kept
  obtain ⟨-, -, -, -, -, -, -, -, -, hbis⟩ := nothingInFlight_of_robCount_eq_zero hs h0
  obtain ⟨e, he, hcomplete⟩ := hc
  obtain ⟨z, htracked, -⟩ := hunder.follows.flight
  have hpc : e.pc = s.pc := head_pc hv htracked he
  obtain ⟨i', hi', hopcode, hrd⟩ := (htracked.rob _ e he).fetched
  have hone : v.robCount = 1 := by rw [hcount, dispatchWith_eq]; exact congrArg (· + 1) h0
  obtain rfl : i = i' := by
    rw [hpc, instrAt_congr (s := s) (by rw [hcfg, dispatchWith_eq]; rfl) (by rw [hprog, dispatchWith_eq]; rfl), hi] at hi'
    exact Option.some.inj hi'
  have hpd : e.pd = destReg (drOf s.pc i) s := by
    have hz := htracked.zsrc
    rw [robInOrder_of_alone hv he hone] at hz
    obtain ⟨hpd, -⟩ := head_entries hv.coupled he
    cases hd : hasDest i.opcode with
    | false =>
      rw [hopcode, hd] at hpd
      rw [destReg_of_noDest hd]
      simpa using hpd
    | true =>
      obtain ⟨p, -, hp⟩ := destReg_of_room (d := drOf s.pc i) hroom hd
      obtain ⟨-, hnew, -⟩ := dispatchWith_dest hp src
      rw [hopcode, hd] at hpd
      obtain ⟨q, hq⟩ := Option.isSome_iff_exists.1 hpd
      rw [hzsrc, hnew] at hz
      rw [hq, show destReg (drOf s.pc i) s = some p from hp, hz]
      exact (zsrcAfter_of_dest hq z).symm
  have hdest : destReg (drOf s.pc i) (afterFetch i s) = e.pd := hpd.symm
  refine ⟨e, {
    inv := hv, front := htravels.frontIdle hfront, entry := he, complete := hcomplete, count := hone
    pc := hpc, opcode := hopcode, rd := hrd, pd := hpd, setup := ?setup, rrat := ?rrat, free := ?free, zsrc := ?zsrc
    prf := fun p hp => h.prf_of_travels htravels (hpd ▸ hp)
    bis := fun ck hck => ?bis, prediction := ?prediction, path := fun hbr => ?path }⟩
  case setup =>
    rw [hcfg, hprog, dispatchWith_eq]
    exact ⟨rfl, rfl⟩
  case rrat =>
    rw [hrrat, dispatchWith_eq]
    rfl
  case free =>
    rw [hfree, dispatchWith_eq, hdest]
    rfl
  case zsrc =>
    rw [hzsrc, dispatchWith_eq]
    have hnew : (newRob (drOf s.pc i) (afterFetch i s)).pd = e.pd := hdest
    simp only [RobEntry.zsrcAfter, hnew]
    rfl
  case bis =>
    rw [hvbis, dispatchWith_eq] at hck
    change ck ∈ if isBranch i.opcode then s.bis ++ [⟨s.rat, s.zsrc, s.robTail⟩] else s.bis at hck
    rw [hbis] at hck
    split at hck
    · rw [List.mem_singleton.1 hck]
    · cases hck
  case prediction =>
    rw [dispatchWith_eq] at hpred
    exact hpred
  case path =>
    rw [hvpc, pc_dispatchWith, predict_of_not_isBranch (d := drOf s.pc i) hbr, Bool.and_false]
    rfl

end

/-! ### The tick of its commit -/

/-- The rest of a tick whose commit has left the engine empty: Fetch ends the recovery, or finds nothing (R150, R360). -/
theorem stages_of_empty {a b c : State} (ha : EngineInv a) (h0 : a.robCount = 0) (hdr : a.dr = none)
    (hfront : a.fetchRecover = true ∨ FrontIdle a) (hb : beforeFetch a = .next b) (hc : fetch b = .next c) :
    c = { a with lastStall := .none, fetchRecover := false } := by
  obtain rfl := Host.Outcome.next.inj ((beforeFetch_of_idle (nothingInFlight_of_robCount_eq_zero ha h0) hdr).symm.trans hb)
  obtain hrec | hidle := hfront
  · exact (Host.Outcome.next.inj ((fetch_of_recover (s := { a with lastStall := .none }) hrec).symm.trans hc)).symm
  · rw [((Travels.later ha .none a.cycle).frontIdle hidle).fetch] at hc
    rw [← Host.Outcome.next.inj hc, ← hidle.recovered]

/-- In `u` the instruction of `e`, complete in `v` and dispatched from `s`, has committed, and nothing is in flight. -/
structure AloneCommitted (s v : State) (e : RobEntry) (u : State) : Prop where
  inv : EngineInv u
  empty : u.robCount = 0
  latch : u.dr = none
  recovered : u.fetchRecover = false
  setup : u.cfg = s.cfg ∧ u.prog = s.prog
  rrat : u.rrat = e.mapAfter s.rrat
  prf : u.prf = v.prf
  free : hasDest e.opcode = true → u.free = e.prev.elim v.free fun p => v.free.set p true
  zsrc : u.zsrc = e.zsrcAfter s.zsrc
  prediction : SamePrediction (trainedBy e v) u
  error : u.error = none

theorem AloneAtHead.step_cases {i : Instr} {s v u : State} {e : RobEntry} (h : AloneAtHead i s v e) (hd : done v = false)
    (hu : step v = .next u) :
    (e.fault = true ∧ u = bumpCycle (raiseAddressOutOfRange e.pc e.faultAddr v)) ∨ AloneCommitted s v e u := by
  have hv := h.inv
  have h0 : v.robCount ≠ 0 := by rw [h.count]; exact Nat.one_ne_zero
  obtain ⟨-, herr⟩ := halted_and_error_of_not_done hd
  have hinv := stepKeepsInv v u hv hu
  have hempty : v.robCount - 1 = 0 := by rw [h.count]
  obtain ⟨hcfg, hprog⟩ := h.setup
  obtain ⟨hdone, -⟩ | ⟨a, -, ha, hend⟩ := tick_eq_next hu
  · simp [hd] at hdone
  have hainv := commit_engineInv hv ha
  obtain ⟨hf, hcommit⟩ | ⟨-, -, hcommit⟩ | ⟨-, hm, ck, hck, hcommit⟩ := commit_of_complete hv h0 h.entry h.complete
  all_goals obtain rfl := Host.Outcome.next.inj (hcommit.symm.trans ha)
  · obtain ⟨-, rfl⟩ | ⟨b, c, hno, -⟩ := hend
    · exact .inl ⟨hf, rfl⟩
    · cases hno
  · obtain ⟨hsome, -⟩ | ⟨b, c, -, hb, hc, rfl⟩ := hend
    · have hsome : v.error.isSome = true := hsome
      simp [herr] at hsome
    obtain rfl := stages_of_empty hainv hempty h.front.latch (.inr ⟨h.front.latch, h.front.recovered, h.front.pc⟩) hb hc
    exact .inr {
      inv := hinv, empty := hempty, latch := h.front.latch, recovered := rfl, setup := ⟨hcfg, hprog⟩
      rrat := congrArg e.mapAfter h.rrat, prf := rfl, free := fun _ => rfl, zsrc := h.zsrc
      prediction := ⟨rfl, rfl, rfl⟩, error := herr }
  · obtain ⟨hsome, -⟩ | ⟨b, c, -, hb, hc, rfl⟩ := hend
    · have hsome : v.error.isSome = true := hsome
      simp [herr] at hsome
    obtain rfl := stages_of_empty hainv rfl rfl (.inl rfl) hb hc
    have hbr : isBranch e.opcode = true := by_contra fun hno => by
      simp [head_mispredicted_of_noBranch hv h.entry (Bool.eq_false_iff.2 hno)] at hm
    obtain ⟨hpd, -⟩ := head_noDest hv h.entry (hasDest_of_isBranch hbr)
    have hzsrc : ck.zsrc = e.zsrcAfter s.zsrc := by
      rw [zsrcAfter_of_noDest hpd, h.bis ck (List.mem_of_mem_head? hck)]
    exact .inr {
      inv := hinv, empty := rfl, latch := rfl, recovered := rfl, setup := ⟨hcfg, hprog⟩
      rrat := congrArg e.mapAfter h.rrat, prf := rfl, free := fun hdest => by simp [hasDest_of_isBranch hbr] at hdest
      zsrc := hzsrc, prediction := ⟨rfl, rfl, rfl⟩, error := herr }

/-! ### The same machine -/

theorem eq_of_forall_none {α : Type} {l l' : List (Option α)} (h : ∀ x ∈ l, x = none) (h' : ∀ x ∈ l', x = none)
    (hlen : l.length = l'.length) : l = l' := by
  rw [List.eq_replicate_of_mem h, List.eq_replicate_of_mem h', hlen]

section
variable {s u : State} (hs : EngineInv s) (hu : EngineInv u) (h0 : s.robCount = 0) (h0' : u.robCount = 0) (hcfg : u.cfg = s.cfg)
include hs hu h0 h0' hcfg

/-- Two empty engines of the same parameters have the same tables in flight (R47 (d)). -/
theorem sameTables_of_empty : u.iq = s.iq ∧ u.intU = s.intU ∧ u.mulU = s.mulU ∧ u.brU = s.brU ∧ u.memU = s.memU ∧ u.rob = s.rob ∧
    u.robCount = s.robCount ∧ u.lsq = s.lsq ∧ u.lsqCount = s.lsqCount ∧ u.bis = s.bis := by
  obtain ⟨-, hlsqCount, hrob, hlsq, hiq, hint, hmul, hbr, hmem, hbis⟩ := nothingInFlight_of_robCount_eq_zero hs h0
  obtain ⟨-, hlsqCount', hrob', hlsq', hiq', hint', hmul', hbr', hmem', hbis'⟩ := nothingInFlight_of_robCount_eq_zero hu h0'
  obtain ⟨-, -, -, -, liq, lint, lmul, lbr, lmem, lrob, llsq, -⟩ := hs.shape
  obtain ⟨-, -, -, -, liq', lint', lmul', lbr', lmem', lrob', llsq', -⟩ := hu.shape
  rw [hcfg] at liq' lrob' llsq'
  exact ⟨eq_of_forall_none hiq' hiq (liq'.trans liq.symm), eq_of_forall_none hint' hint (lint'.trans lint.symm),
    eq_of_forall_none hmul' hmul (lmul'.trans lmul.symm), eq_of_forall_none hbr' hbr (lbr'.trans lbr.symm),
    eq_of_forall_none hmem' hmem (lmem'.trans lmem.symm), eq_of_forall_none hrob' hrob (lrob'.trans lrob.symm), h0'.trans h0.symm,
    eq_of_forall_none hlsq' hlsq (llsq'.trans llsq.symm), hlsqCount'.trans hlsqCount.symm, hbis'.trans hbis.symm⟩

/-- With nothing in flight the free pool is what the retirement map leaves (R25, R140). -/
theorem free_of_rrat (hrrat : u.rrat = s.rrat) : u.free = s.free := by
  obtain ⟨-, -, hpool, -⟩ := hs.coupled.rename
  obtain ⟨-, -, hpool', -⟩ := hu.coupled.rename
  obtain ⟨-, hlen, -⟩ := hs.shape
  obtain ⟨-, hlen', -⟩ := hu.shape
  refine List.ext_getElem (by rw [hlen', hlen, hcfg]) fun p hp hp' => ?_
  rw [hlen] at hp'
  have heq : u.free[p]? = s.free[p]? := by
    rw [hpool' p (hcfg ▸ hp'), hpool p hp', owned_of_empty h0', owned_of_empty h0, hrrat]
  simpa [hp, hlen, hp'] using heq

/-- An empty engine is the same machine as one that has kept the tables in flight of another empty engine. -/
theorem sameMachine_of_empty {t : State} (hpipe : SamePipeline s t) (hfront : u.dr = s.dr ∧ u.fetchRecover = s.fetchRecover)
    (hprog : u.prog = s.prog) (hpc : u.pc = t.pc) (harch : SameArch u t) (hren : SameRenaming u t) (hpred : SamePrediction u t) :
    SameMachine u t := by
  obtain ⟨-, hint, hmul, hbr, hmem, hrob, hrobCount, hlsq, hlsqCount, hbis⟩ := sameTables_of_empty hs hu h0 h0' hcfg
  obtain ⟨tcfg, tprog, trec, tdr, tint, tmul, tbr, tmem, trob, -, -, trobCount, tlsq, -, -, tlsqCount, tbis, -, -⟩ := hpipe
  obtain ⟨hdr, hrec⟩ := hfront
  obtain ⟨-, hdmem, hcommitted, hhalted, herror⟩ := harch
  obtain ⟨hprf, hfree, hrat, hzsrc, hrrat, hiq⟩ := hren
  obtain ⟨hbtb, hrr, hdraws⟩ := hpred
  simp only [SameMachine, hcfg, ← tcfg, hprog, ← tprog, hrec, ← trec, hdr, ← tdr, hint, ← tint, hmul, ← tmul, hbr, ← tbr, hmem, ← tmem,
    hrob, ← trob, hrobCount, ← trobCount, hlsq, ← tlsq, hlsqCount, ← tlsqCount, hbis, ← tbis, hpc, hdmem, hcommitted, hhalted, herror,
    ← hprf, ← hfree, ← hrat, ← hzsrc, ← hrrat, ← hiq, ← hbtb, ← hrr, ← hdraws]

end

/-- Training depends on the prediction state and the parameters only (R256, R257). -/
theorem btbUpdate_congr {s v : State} (hcfg : v.cfg = s.cfg) (h : SamePrediction s v) (a : Word) (taken : Bool) (target : Word) :
    SamePrediction (btbUpdate a taken target s) (btbUpdate a taken target v) := by
  obtain ⟨hbtb, hrr, hdraws⟩ := h
  cases hfind : btbFind a 0 s.btb with
  | some x => simp [SamePrediction, btbUpdate, hbtb, hrr, hdraws, hfind]
  | none =>
    cases hroom : firstNone 0 s.btb with
    | some k => simp [SamePrediction, btbUpdate, hbtb, hrr, hdraws, hfind, hroom]
    | none =>
      cases hpolicy : s.cfg.btbVictim <;>
        simp [SamePrediction, btbUpdate, btbVictim, hcfg, hbtb, hrr, hdraws, hfind, hroom, hpolicy]

theorem readReg_eq_of_registers {u t : State} (hcfg : u.cfg = t.cfg) (h : registers u = registers t) {k : Nat}
    (hk : k < u.cfg.numArch) : readReg u k = readReg t k := by
  have hget := congrArg (·[k]?) h
  simpa [registers, ← hcfg, hk] using hget

/-- The outcome recorded for a branch alone in flight is that of its meaning (R253). -/
theorem AloneAtHead.outcome {i : Instr} {s v : State} {e : RobEntry} (h : AloneAtHead i s v e) (hunder : Underway 1 (refView s) v)
    (hi : instrAt s s.pc = some i) (hbr : isBranch i.opcode = true) {o : Bool × Word}
    (hout : ∀ vs, RefOperands (refView s) i vs → branchOutcome (operationOf i vs) s.pc = some o) : o = (e.actTaken, e.actTarget) := by
  obtain ⟨hcfg, hprog⟩ := h.setup
  obtain ⟨z, htracked, hshows⟩ := hunder.follows.flight
  have hinstr : instrAt v e.pc = some i := by rw [h.pc, instrAt_congr hcfg hprog, hi]
  obtain ⟨i', vs, hops, -, houtcome⟩ := (htracked.rob _ e h.entry).result h.complete (h.opcode ▸ usesLsq_of_isBranch hbr)
  obtain rfl := Option.some.inj ((instrIn_head h.entry hops.instr).symm.trans hinstr)
  exact houtcome o (h.pc ▸ hout vs (refOperands_of_head h.inv hshows hops (instrAt_mem hinstr)))

/-- The meaning of an instruction leaves what is in flight alone, unless it raises the error. -/
theorem ExecEffect.samePipeline {i : Instr} {s t : State} (h : ExecEffect i s t) (herr : t.error = none) : SamePipeline s t := by
  cases h with
  | dest _ _ h =>
    obtain ⟨-, -, -, -, -, -, -, -, hpipe, -⟩ := h
    exact hpipe
  | word _ _ _ h =>
    obtain ⟨-, -, -, -, -, -, hpipe, -⟩ := h
    exact hpipe
  | branch _ _ _ h =>
    obtain ⟨-, -, -, -, hpipe, -⟩ := h
    exact hpipe
  | halt _ h => exact h ▸ ⟨rfl, rfl, rfl, rfl, rfl, rfl, rfl, rfl, rfl, rfl, rfl, rfl, rfl, rfl, rfl, rfl, rfl, rfl, rfl⟩
  | raised _ a h => simp [h, raisedAt, raiseAddressOutOfRange] at herr

section
variable {i : Instr} {s v u : State} {e : RobEntry} (hs : EngineInv s) (h0 : s.robCount = 0) (hv : AloneAtHead i s v e)
  (hu : AloneCommitted s v e u)
include hs h0 hv hu

/-- Without a destination the commit leaves the renaming state as it was before the fetch (R140, R328). -/
theorem AloneCommitted.sameRenaming (hd : hasDest i.opcode = false) : SameRenaming s u := by
  obtain ⟨hcfg, -⟩ := hu.setup
  have hpd : e.pd = none := hv.pd.trans (destReg_of_noDest hd)
  have hrrat : u.rrat = s.rrat := hu.rrat.trans (mapAfter_of_noDest hpd _)
  obtain ⟨-, -, -, hrat, -⟩ := atBoundary_of_empty hs h0
  obtain ⟨-, -, -, hrat', -⟩ := atBoundary_of_empty hu.inv hu.empty
  obtain ⟨hiq, -⟩ := sameTables_of_empty hs hu.inv h0 hu.empty hcfg
  refine ⟨?_, free_of_rrat hs hu.inv h0 hu.empty hcfg hrrat, by rw [hrat, hrat', hrrat],
    hu.zsrc.trans (zsrcAfter_of_noDest hpd _), hrrat, hiq⟩
  exact List.ext_getElem? fun p => hu.prf ▸ hv.prf p (by rw [hpd]; nofun)

/-- With a destination the commit leaves the renaming state that the meaning's write gives (R133, R134, R323). -/
theorem AloneCommitted.sameRenaming_of_writesDest {w : Word} {t : State} (hd : hasDest i.opcode = true)
    (hrd : i.toRecord.rd < s.cfg.numArch) (ht : WritesDest i.toRecord.rd w s t) (hregs : registers u = registers t) :
    SameRenaming u t := by
  obtain ⟨hcfg, -⟩ := hu.setup
  obtain ⟨hread, -, -, -, -, ⟨-, -, -, htrat, -⟩, ⟨p, prev, hp, hprev, htprf, htfree, -, htrrat, htzsrc, htiq⟩, -, ⟨htcfg, -⟩, -⟩ := ht
  obtain ⟨hiq, -⟩ := sameTables_of_empty hs hu.inv h0 hu.empty hcfg
  obtain ⟨-, -, -, -, hnone, -⟩ := nothingInFlight_of_robCount_eq_zero hs h0
  obtain ⟨-, -, -, hrat, -⟩ := atBoundary_of_empty hu.inv hu.empty
  have hpd : e.pd = some p := hv.pd.trans ((if_pos hd).trans hp)
  have hrrat : u.rrat = s.rrat.set i.toRecord.rd p := by rw [hu.rrat, mapAfter_of_dest hpd, hv.rd]
  have hlt : i.toRecord.rd < s.rrat.length := (List.getElem?_eq_some_iff.1 hprev).1
  have hmap : u.rrat[i.toRecord.rd]? = some p := by rw [hrrat, List.getElem?_set_self hlt]
  have hprf : u.prf = s.prf.set p ⟨w, true⟩ := by
    have hvalid := hu.inv.coupled.committed p (List.mem_of_getElem? hmap)
    obtain ⟨⟨x, b⟩, hx, rfl⟩ := Option.map_eq_some_iff.1 hvalid
    obtain rfl : x = w := by
      have hboth : readReg u i.toRecord.rd = readReg t i.toRecord.rd :=
        readReg_eq_of_registers (hcfg.trans htcfg.symm) hregs (hcfg ▸ hrd)
      rw [← hread, ← hboth, readReg_of_holds hmap hx]
    refine List.ext_getElem? fun q => ?_
    by_cases hq : p = q
    · subst hq
      rw [hx, List.getElem?_set_self ((atBoundary_of_empty hs h0).pickFree_lt_prf hp)]
    · rw [List.getElem?_set_ne hq, hu.prf, hv.prf q (by simpa [hpd] using hq)]
  have hfree : u.free = (s.free.set p false).set prev true := by
    have heprev : e.prev = some prev := by
      rw [head_prev hv.inv.coupled hv.entry (by rw [hpd]; rfl), hv.rrat, hv.rd, hprev]
    rw [hu.free (hv.opcode ▸ hd), heprev, hv.free, hpd]
    rfl
  have hwake : s.iq.map (Option.map (IqEntry.wake p)) = s.iq :=
    (List.map_congr_left fun x hx => by rw [hnone x hx]; rfl).trans (List.map_id _)
  exact ⟨htprf.trans hprf.symm, htfree.trans hfree.symm, by rw [htrat, htrrat, hrat, hrrat],
    htzsrc.trans (hu.zsrc.trans (zsrcAfter_of_dest hpd _)).symm, htrrat.trans hrrat.symm, by rw [htiq, hwake, hiq]⟩

end

theorem samePrediction_of_common {s t u : State} (hu : SamePrediction s u) (ht : SamePrediction s t) : SamePrediction u t := by
  obtain ⟨hbtb, hrr, hdraws⟩ := hu
  obtain ⟨hbtb', hrr', hdraws'⟩ := ht
  exact ⟨hbtb'.trans hbtb.symm, hrr'.trans hrr.symm, hdraws'.trans hdraws.symm⟩

theorem sameRenaming_of_common {s t u : State} (hu : SameRenaming s u) (ht : SameRenaming s t) : SameRenaming u t := by
  obtain ⟨hprf, hfree, hrat, hzsrc, hrrat, hiq⟩ := hu
  obtain ⟨hprf', hfree', hrat', hzsrc', hrrat', hiq'⟩ := ht
  exact ⟨hprf'.trans hprf.symm, hfree'.trans hfree.symm, hrat'.trans hrat.symm, hzsrc'.trans hzsrc.symm, hrrat'.trans hrrat.symm,
    hiq'.trans hiq.symm⟩

section
variable {i : Instr} {s t v u : State} {e : RobEntry} (h : AboutToRun i s) (hv : AloneAtHead i s v e) (hu : AloneCommitted s v e u)

include hv hu in
/-- Only a branch's commit changes the prediction state (R325). -/
theorem AloneCommitted.samePrediction (hbr : isBranch i.opcode = false) : SamePrediction s u := by
  obtain ⟨hbtb, hrr, hdraws⟩ := hv.prediction
  obtain ⟨hbtb', hrr', hdraws'⟩ := trainedBy_of_noBranch (hv.opcode ▸ hbr) v ▸ hu.prediction
  exact ⟨hbtb'.trans hbtb, hrr'.trans hrr, hdraws'.trans hdraws⟩

include h hv hu

/-- The meaning and the commit leave the same renaming and the same prediction state. -/
theorem ExecEffect.sameRenaming_and_prediction (heffect : ExecEffect i s t) (hunder : Underway 1 (refView s) v)
    (hregs : registers u = registers t) (herr : t.error = none) : SameRenaming u t ∧ SamePrediction u t := by
  have hwf := h.wellFormed
  obtain ⟨hs, ⟨h0, -⟩, -, -, hi⟩ := h
  cases heffect with
  | dest hd w hw =>
    obtain ⟨-, -, -, -, -, -, -, -, -, hpred, -⟩ := id hw
    exact ⟨hu.sameRenaming_of_writesDest hs h0 hv hd ((drOf_registers (pc := 0) hwf).1 hd) hw hregs,
      samePrediction_of_common (hu.samePrediction hv (isBranch_of_hasDest hd)) hpred⟩
  | word hst a w hw =>
    obtain ⟨-, -, -, -, -, hren, -, hpred, -⟩ := hw
    exact ⟨sameRenaming_of_common (hu.sameRenaming hs h0 hv (hasDest_of_isStoreOp hst)) hren,
      samePrediction_of_common (hu.samePrediction hv (isBranch_of_usesLsq (usesLsq_of_isStoreOp hst))) hpred⟩
  | branch hbr taken target hto htrain hout =>
    obtain ⟨-, -, hren, -⟩ := hto
    obtain ⟨hcfg, -⟩ := hv.setup
    obtain ⟨rfl, rfl⟩ := Prod.mk.inj (hv.outcome hunder hi hbr hout)
    have hpred := hu.prediction
    rw [trainedBy_of_branch (hv.opcode ▸ hbr), hv.pc] at hpred
    obtain ⟨hbtb, hrr, hdraws⟩ := btbUpdate_congr hcfg hv.prediction s.pc e.actTaken e.actTarget
    obtain ⟨hbtb', hrr', hdraws'⟩ := hpred
    exact ⟨sameRenaming_of_common (hu.sameRenaming hs h0 hv (hasDest_of_isBranch hbr)) hren,
      samePrediction_of_common ⟨hbtb'.trans hbtb, hrr'.trans hrr, hdraws'.trans hdraws⟩ htrain⟩
  | halt hi ht =>
    subst hi ht
    exact ⟨sameRenaming_of_common (hu.sameRenaming hs h0 hv rfl) ⟨rfl, rfl, rfl, rfl, rfl, rfl⟩,
      samePrediction_of_common (hu.samePrediction hv rfl) ⟨rfl, rfl, rfl⟩⟩
  | raised _ a ht => simp [ht, raisedAt, raiseAddressOutOfRange] at herr

end

theorem IdleTicks.engineInv {n : Nat} {s t : State} (hs : EngineInv s) (h : IdleTicks n s t) : EngineInv t := by
  induction h with
  | refl => exact hs
  | head hd _ ih => exact ih (stepKeepsInv _ _ hs hd.step)

/-- With nothing in flight the engine stands at the pc of the reference state it is in step with (R340). -/
theorem Follows.pc_of_empty {u : State} {r : RefState} (h : Follows u r) (h0 : u.robCount = 0) (hdr : u.dr = none) : u.pc = r.pc := by
  obtain ⟨z, htracked, -⟩ := h.flight
  have hpath := htracked.path
  rw [robInOrder_eq_nil h0, frontPc, hdr] at hpath
  exact Eq.symm hpath

/-- The run of R416 when nothing else can be fetched: it ends with the tick of the instruction that is alone at the head. -/
theorem AboutToRun.runs_alone {i : Instr} {s : State} (h : AboutToRun i s) (hnext : inRange s (s.pc + 4) = false)
    (hbranch : isBranch i.opcode = true → ∀ target, btbLookup s s.pc = (true, true, target) → inRange s target = false) :
    ∃ v u e, AloneAtHead i s v e ∧ v.committed = s.committed ∧ Underway 1 (refView s) v ∧ HeadComplete v ∧ step v = .next u ∧
      Host.Core.run core (soloTicks i s) s = .next u := by
  obtain ⟨src, x, v, u, n, hroom, hx, hs₂, hticks, hunder, hc, hu, hrun⟩ := h.runs
  have hfront := h.frontIdle src hnext hbranch
  obtain rfl := Host.Outcome.next.inj (hfront.fetch.symm.trans hx)
  obtain ⟨hinv, -⟩ := id h
  have hinv₂ := hs₂.engineInv hinv
  have htick := Travels.of_bumpCycle hinv₂
  have htravels := htick.trans (hticks.travels hinv₂ (htick.frontIdle hfront))
  obtain ⟨e, he⟩ := h.aloneAtHead htravels hroom hfront hunder hc
  exact ⟨v, u, e, he, (hs₂.trans hticks).committed, hunder, hc, hu, hrun⟩

end Sys2Proof.Machine

section
open Sys2Proof Sys2Proof.Machine

/-- Settles O58: what is in flight is the instruction alone, and its commit leaves the machine that its meaning describes. -/
theorem loneInstructionRunsAsExec : Obligations.LoneInstructionRunsAsExec := by
  intro i s h hnext hbranch
  obtain ⟨t, ht, heffect, hstep⟩ := h.exec_agrees
  obtain ⟨v, u, e, hv, hcommitted, hunder, hc, hu, hrun⟩ := h.runs_alone hnext hbranch
  obtain ⟨hcfg, hprog⟩ := hv.setup
  rw [← hcfg, ← hprog] at hstep
  have harch := h.sameArch heffect hstep hcommitted hunder hc hu
  obtain ⟨hregs, -, -, -, herror⟩ := id harch
  obtain ⟨hs, ⟨h0, hdr, hrec⟩, hd, -⟩ := id h
  have hdone : done v = false := hunder.not_done (.inl (by rw [hv.count]; exact Nat.one_ne_zero))
  refine ⟨t, u, ht, hrun, fun hno => ?_, fun hsome => ?_⟩
  all_goals obtain ⟨hf, hraised⟩ | hcommit := hv.step_cases hdone hu
  · have hnone : (bumpCycle (raiseAddressOutOfRange e.pc e.faultAddr v)).error = none := by rw [← hraised, herror, hno]
    cases hnone
  · obtain ⟨hren, hpred⟩ := heffect.sameRenaming_and_prediction h hv hcommit hunder hregs hno
    obtain ⟨-, -, hfollows⟩ | ⟨hsome, -⟩ := hunder.ends hc hu hstep
    · exact sameMachine_of_empty hs hcommit.inv h0 hcommit.empty hcommit.setup.1 (heffect.samePipeline hno)
        ⟨hcommit.latch.trans hdr.symm, hcommit.recovered.trans hrec.symm⟩ hcommit.setup.2
        (hfollows.pc_of_empty hcommit.empty hcommit.latch) harch hren hpred
    · exact absurd hcommit.error hsome
  · obtain ⟨-, herr⟩ := halted_and_error_of_not_done hd
    obtain ⟨hno, -⟩ | ⟨hlsq, a, rfl⟩ := heffect.progress herr
    · exact absurd hno hsome
    subst hraised
    exact ⟨harch, hv.path (isBranch_of_usesLsq hlsq), hv.count, e, hv.entry, hv.pc, hv.opcode, hf⟩
  · exact absurd (herror.symm.trans hcommit.error) hsome

end
